-- ==== Sys2Proof/Word.lean ====
section
/-! DEFINITION. The word types of the block (00_scope.md R8: every value is an unsigned bit field,
bit 0 least significant; nothing is ever sign-extended). -/

namespace Sys2Proof

/-- One byte of PACK_MEM, and the unit of the bus address space (R60, R65). -/
abbrev Byte := BitVec 8

/-- One register, one CODE_MEM word, one bus address, one unit of bus data (R23, R40, R60). -/
abbrev Word := BitVec 32

/-- One PHASE_MEM entry, one range bound, one error context value (R11, R36, R39). -/
abbrev Word64 := BitVec 64

end Sys2Proof
end

