-- ==== Sys2Proof/Machine/Binary64.lean ====
section
/-! DEFINITION. The numbers of the quantizer (00_scope.md R9, R11 to R13; 41_quantize.md R120, R121): the
value of a binary64 word, exact rational arithmetic, and the only two operations that round. -/

namespace Sys2Proof.Machine

/-- Biased exponent `w[62:52]` (R11). -/
def f64Exp (w : Word64) : Nat := (w.extractLsb' 52 11).toNat

/-- Fraction `w[51:0]` (R11). -/
def f64Frac (w : Word64) : Nat := (w.extractLsb' 0 52).toNat

/-- Sign `w[63]` (R11). -/
def f64Sign (w : Word64) : Bool := w.getLsbD 63

/-- What a binary64 word denotes (R11): "a rational number, `+inf`, `-inf` or `NaN`". -/
inductive FVal where
  | num (q : ℚ)
  | posInf
  | negInf
  | nan
  deriving DecidableEq, Repr

/-- The magnitude of a finite word in units of `2^-1074`: `f` for `e = 0`, and
`(2^52 + f) × 2^(e-1)` otherwise, that is `(2^52 + f) × 2^(e-1075)` (R11). -/
def f64Units (w : Word64) : Nat :=
  if f64Exp w = 0 then f64Frac w else (2 ^ 52 + f64Frac w) * 2 ^ (f64Exp w - 1)

/-- `val(w)` (R11). Both zeros denote 0. -/
def val (w : Word64) : FVal :=
  if f64Exp w = 0x7FF then
    if f64Frac w = 0 then (if f64Sign w then .negInf else .posInf) else .nan
  else .num (mkRat (if f64Sign w then -(f64Units w : ℤ) else f64Units w) (2 ^ 1074))

/-- `finite(v)` of 40_profile.md R102: "`v` is a rational, not NaN or an infinity". -/
def FVal.isFinite : FVal → Bool
  | .num _ => true
  | .posInf => false
  | .negInf => false
  | .nan => false

/-- The rational a finite word denotes. A word of a valid range is always finite (R108); the 0 for the
other words is never used by a command with a valid profile. -/
def ratOf (w : Word64) : ℚ :=
  match val w with
  | .num q => q
  | .posInf => 0
  | .negInf => 0
  | .nan => 0

/-- `rne(q)` (R12): the nearest integer, and the even one of two that are equally near. -/
def rne (q : ℚ) : ℤ :=
  if q - (q.floor : ℚ) < 1 / 2 then q.floor
  else if 1 / 2 < q - (q.floor : ℚ) then q.floor + 1
  else if q.floor % 2 = 0 then q.floor
  else q.floor + 1

/-- The binary64 magnitude bits nearest to `x` units of `2^-1074`, for `x ≥ 0`. One unit in the last
place is `2^p` units with `p = log2 ⌊x⌋ - 52` (0 for a subnormal), and `p × 2^52` plus the rounded
multiple of it is the word: a carry out of the fraction runs into the exponent. -/
def f64OfUnits (x : ℚ) : Nat :=
  (Nat.log2 x.floor.toNat - 52) * 2 ^ 52 + (rne (x / ((2 ^ (Nat.log2 x.floor.toNat - 52) : ℕ) : ℚ))).toNat

/-- `fl64(q)` (R13): the binary64 word nearest to `q`, ties to the even fraction. A value that rounds to
zero gives +0.0, since "no command ever writes −0.0" (D43): DEDUCED, assumption log 8. It is applied only
between two finite words (R130); above them it would give the infinity bits, assumption log 9. -/
def fl64 (q : ℚ) : Word64 :=
  let m := f64OfUnits (|q| * ((2 ^ 1074 : ℕ) : ℚ))
  if q < 0 ∧ m ≠ 0 then BitVec.ofNat 64 (2 ^ 63 + m) else BitVec.ofNat 64 m

end Sys2Proof.Machine
end

