-- ==== Sys2Proof/Config.lean ====
section
/-! DEFINITION. What an implementation fixes (00_scope.md R7), and the free values (93 I1, I2, I4, I14). -/

namespace Sys2Proof.Config

/-- The values the spec leaves unspecified and the model draws freely (10_state.md R43: "A model draws
such a value freely at each read"). Draw number `n` of a run is `freeValue n`, where `n` is the counter
`State.draws`. The constant has no body, so a theorem about it holds for every choice of values.
Assumption log 2. -/
opaque freeValue : Nat → Word64

/-- `MAX_BIT_DEPTH` (R7, D10). -/
def maxBitDepth : Nat := 32

/-- The three capacities R7 leaves OPEN (D12). They stand in the state (`State.caps`) and no step
changes them, so a statement about every state is a statement about every value of the parameters.
Assumption log 1. -/
structure Caps where
  /-- `PHASE_MEM_ENTRIES`: number of 64-bit phase words. -/
  phaseEntries : Nat
  /-- `CODE_MEM_ENTRIES`: number of 32-bit code words. -/
  codeEntries : Nat
  /-- `PACK_MEM_BYTES`: number of packed-buffer bytes. -/
  packBytes : Nat
  deriving DecidableEq, Repr

/-- The sizing R7 gives as its example, and the one section 2 of 95_test_vectors.md uses.
DESIGN CHOICE, unsafe for a statement that rests on the numbers; none does. Assumption log 1. -/
def suggestedCaps : Caps where
  phaseEntries := 2 ^ 21
  codeEntries := 2 ^ 21
  packBytes := 2 ^ 23

end Sys2Proof.Config
end

