-- ==== Sys2Proof/Syntax.lean ====
section
/-! DEFINITION. The command set `PLMC-CMD` 1: one constructor per row of the opcode table
(30_encoding.md R81). A command has no operand in its word: every operand is a register or a buffer
range that the opcode fixes (R84), so no constructor has an argument. -/

namespace Sys2Proof

/-- The five commands of R3 and R81. -/
inductive Instr where
  /-- Check the staging profile and latch it (40_profile.md R102). -/
  | validate
  /-- PHASE_MEM to CODE_MEM (41_quantize.md R129). -/
  | quantize
  /-- CODE_MEM to PHASE_MEM (41_quantize.md R131). -/
  | dequantize
  /-- CODE_MEM to PACK_MEM (42_pack.md R160). -/
  | pack
  /-- PACK_MEM to CODE_MEM (42_pack.md R162). -/
  | unpack
  deriving DecidableEq, Repr

end Sys2Proof
end

