-- ==== Sys2Proof/WellFormed.lean ====
section
/-! DEFINITION. What a well-formed command word, command and parameter set is. -/

namespace Sys2Proof

/-- Check 1 of a command word: `RSVD = CMD[31:4]` is 0 (30_encoding.md R80). -/
def cmdReservedClear (w : Word) : Bool := w.extractLsb' 4 28 == 0#28

/-- Check 2 of a command word: `OPCODE = CMD[3:0]` is one of 0x1 to 0x5 (R81, R82). -/
def cmdOpcodeUsed (w : Word) : Bool :=
  1 ≤ (w.extractLsb' 0 4).toNat && (w.extractLsb' 0 4).toNat ≤ 5

/-- A legal CMD word: the negation of R82's "illegal". -/
def cmdWellFormed (w : Word) : Bool := cmdReservedClear w && cmdOpcodeUsed w

/-- A command is well-formed as it stands: it has no operand field that could hold an illegal value
(R84). -/
def instrWellFormed : Instr → Bool
  | .validate => true
  | .quantize => true
  | .dequantize => true
  | .pack => true
  | .unpack => true

/-- The bounds R7 sets on `PHASE_MEM_ENTRIES`. -/
def capsPhaseOk (c : Config.Caps) : Bool := 1 ≤ c.phaseEntries && c.phaseEntries ≤ 2 ^ 25

/-- The bounds R7 sets on `CODE_MEM_ENTRIES`. -/
def capsCodeOk (c : Config.Caps) : Bool := 1 ≤ c.codeEntries && c.codeEntries ≤ 2 ^ 26

/-- The bounds R7 sets on `PACK_MEM_BYTES`, "a multiple of 4". -/
def capsPackOk (c : Config.Caps) : Bool :=
  1 ≤ c.packBytes && c.packBytes ≤ 2 ^ 28 && c.packBytes % 4 == 0

/-- A parameter set R7 admits. -/
def capsWellFormed (c : Config.Caps) : Bool := capsPhaseOk c && capsCodeOk c && capsPackOk c

end Sys2Proof
end

