-- ==== Sys2Proof/Decode.lean ====
section
/-! DEFINITION. The decoder of the CMD word (30_encoding.md R80 to R83), total on every word and rejecting
by name, and the encoder. "A decoder reads the whole 32-bit CMD word and decides by rules R81 and R82
alone" (R83). -/

namespace Sys2Proof

/-- Why a CMD word is illegal (R82). The block treats all illegal words alike; the name only says
which half of R82 applies. -/
inductive Reject where
  /-- `RSVD ≠ 0`. -/
  | reservedBits
  /-- `RSVD = 0` and `OPCODE` is 0x0 or 0x6 to 0xF. -/
  | unusedOpcode
  deriving DecidableEq, Repr

/-- `CMD[3:0]` (R80). -/
def cmdOpcode (w : Word) : BitVec 4 := w.extractLsb' 0 4

/-- `CMD[31:4]` (R80). -/
def cmdRsvd (w : Word) : BitVec 28 := w.extractLsb' 4 28

/-- The opcode map of R81. -/
def opcodeInstr (op : BitVec 4) : Option Instr :=
  if op = 0x1#4 then some .validate
  else if op = 0x2#4 then some .quantize
  else if op = 0x3#4 then some .dequantize
  else if op = 0x4#4 then some .pack
  else if op = 0x5#4 then some .unpack
  else none

/-- Decoding of a CMD word (R81 to R83). -/
def decode (w : Word) : Except Reject Instr :=
  if cmdRsvd w = 0#28 then
    match opcodeInstr (cmdOpcode w) with
    | some i => .ok i
    | none => .error .unusedOpcode
  else .error .reservedBits

/-- The host's view of the decoder: the command a row's `nbits` bits with value `w` decode to. The table
gives every row 32 bits, the whole CMD word; a word that needs more than 32 bits is no CMD word. -/
def decodeTableWord (nbits w : Nat) : Option Instr :=
  if w % 2 ^ nbits < 2 ^ 32 then
    match decode (BitVec.ofNat 32 (w % 2 ^ nbits)) with
    | .ok i => some i
    | .error _ => none
  else none

/-- OPCODE of each command (R81). -/
def instrOpcode : Instr → BitVec 4
  | .validate => 0x1#4
  | .quantize => 0x2#4
  | .dequantize => 0x3#4
  | .pack => 0x4#4
  | .unpack => 0x5#4

/-- "The command word is `zext_32(OPCODE)` with RSVD = 0" (R81). -/
def encode (i : Instr) : Word := (instrOpcode i).setWidth 32

end Sys2Proof
end

