-- ==== Sys2Proof/Machine/State.lean ====
section
/-! DEFINITION. The state of one instance of the block (10_state.md R21), with the Host agent and the
schedule beside it (R20), as plain data; the reasons a step can stop; the state after reset (R47). -/

namespace Sys2Proof.Machine

/-- Byte-addressed storage of the three buffers, keyed by bus address (20_memory.md R60, R61):
addresses strictly rising. An address that is not listed belongs to a word whose "written since reset"
mark is clear (10_state.md R43): it has no stored value, and a read of the word draws a free value. -/
abbrev Memory := List Host.Cell

/-- The canonical form: addresses strictly rising. No entry can equal what an unlisted address reads as,
because an unlisted address has no stored value. -/
def Memory.wf : Memory → Bool
  | [] => true
  | [_] => true
  | c :: d :: m => decide (c.1 < d.1) && Memory.wf (d :: m)

/-- A DeviceProfile in registers: the staging registers CFG_* (R28, R29) or the active registers ACT_*
(R30, R31). Bits marked RAZ/WI have no storage (R38). -/
structure Profile where
  /-- `DEPTH[5:0]`, BIT_DEPTH. -/
  depth : BitVec 6
  /-- `RES`: HEIGHT in bits 31:16, WIDTH in bits 15:0 (30_encoding.md R89). -/
  res : Word
  /-- `MODE[6:0]`: POLICY 6:5, COL_FLIP 4, ROW_FLIP 3, BYTE_LAYOUT 2:1, BIT_ORDER 0. -/
  mode : BitVec 7
  /-- `{PMIN_HI, PMIN_LO}`. -/
  pmin : Word64
  /-- `{PMAX_HI, PMAX_LO}`. -/
  pmax : Word64
  deriving DecidableEq, Repr

/-- What reset, and a failed VALIDATE for ACT_*, leave in a profile register set (R23, R30, R47). -/
def Profile.zero : Profile := ⟨0, 0, 0, 0, 0⟩

/-- `STATUS.ERR_CODE` (60_exceptions.md R180); codes 7 to 15 are never produced. -/
inductive ErrKind where
  | noError
  | invalidProfile
  | outOfDomain
  | shapeMismatch
  | bufferLengthMismatch
  | codeOutOfRange
  | illegalCommand
  deriving DecidableEq, Repr

/-- The decoded command of a running Engine: a command, or ILLEGAL for an illegal word (R42). -/
inductive Op where
  | command (i : Instr)
  | illegal
  deriving DecidableEq, Repr

/-- The snapshot a start takes (R42, R187). The staging profile is part of it because VALIDATE "reads
the staging registers at its start" (40_profile.md R106; 20_memory.md R73). DEDUCED, assumption log 6. -/
structure Snap where
  /-- The CMD word. -/
  cmd : Word
  /-- SRC_RES at the start. -/
  srcRes : Word
  /-- SRC_LEN at the start. -/
  srcLen : Word
  /-- The staging registers at the start. -/
  cfg : Profile
  deriving DecidableEq, Repr

/-- The Engine state (R42). -/
inductive Engine where
  | idle
  | running (op : Op) (snap : Snap)
  deriving DecidableEq, Repr

/-- The width of a bus access (20_memory.md R61). -/
inductive Width where
  | w8
  | w16
  | w32
  deriving DecidableEq, Repr

/-- A value a host line writes: a number, or a host variable (30_encoding.md R91). -/
inductive HostValue where
  | const (v : Word)
  | var (x : Nat)
  deriving DecidableEq, Repr

/-- A condition of host control flow (R91): always, or a test of bits `hi` to `lo` of a variable. -/
inductive HostCond where
  | always
  | fieldEq (x hi lo v : Nat)
  | fieldNe (x hi lo v : Nat)
  deriving DecidableEq, Repr

/-- A line of a host program (R91). A label is the index of the line it stands before. -/
inductive HostLine where
  /-- `wr`, `wr32`, `wr16`, `wr8`. -/
  | write (w : Width) (addr : Word) (v : HostValue)
  /-- `rd`, `rd32`, `rd16`, `rd8` into variable `x`. -/
  | read (w : Width) (addr : Word) (x : Nat)
  /-- `poll <REG>.<FIELD> == <v>`, the field being bits `hi` to `lo`. -/
  | poll (addr : Word) (hi lo v : Nat)
  /-- `if <cond> goto <label>`. -/
  | ifGoto (c : HostCond) (target : Nat)
  deriving DecidableEq, Repr

/-- The Host agent (R20, R22): its program, its own program counter, and its variables by number. The
model's own state, outside the block; assumption log 13. -/
structure HostAgent where
  prog : List HostLine
  pc : Nat
  vars : List Word
  deriving DecidableEq, Repr

/-- Whose move comes next: the schedule of 93 I5, with the platform's reset input (R210) as a turn. -/
inductive Turn where
  | host
  | engine
  | reset
  deriving DecidableEq, Repr

/-- Why a step ends in a fault. -/
inductive Fault where
  /-- A host read got a bus error (20_memory.md R66; R190: "A model treats a host access that gets a bus
  error as a fault of the host program"; 93 I15). `data` is the data word of the error response. Raised
  by `busRead`. Safe: the access changes nothing in the block. -/
  | busReadError (data : Word)
  /-- A host write got a bus error (R66, R190; 93 I15). Raised by `busWrite`. Safe: the access changes
  nothing in the block. -/
  | busWriteError
  /-- A host write to a word of the running command's read or write range (70_reset_and_hazards.md
  R215; 93 I3). Raised by `busWrite`. Safe: "the model has no meaning for the run". -/
  | hostRace
  deriving DecidableEq, Repr

/-- Why a step is refused. -/
inductive Refusal where
  /-- An instruction without a meaning, named by its row's mnemonic. No arm answers it: every command
  has its meaning. Safe. -/
  | notModelled (mnemonic : String)
  deriving DecidableEq, Repr

/-- The state: the architectural state of R21, then the parameters of R7, then the model's own fields.
STATUS.BUSY, STATUS.ERR and the IRQ line are functions of it (R26, R42, R44). -/
structure State where
  /-- STATUS.DONE (R26). -/
  done : Bool
  /-- STATUS.OVERRUN (R26). -/
  overrun : Bool
  /-- STATUS.PROFILE_VALID (R26, R32). -/
  profileValid : Bool
  /-- STATUS.ERR_CODE (R26, R180). -/
  err : ErrKind
  /-- IRQ_EN.DONE_IE (R27). -/
  doneIe : Bool
  /-- CFG_DEPTH, CFG_RES, CFG_MODE, CFG_PMIN, CFG_PMAX (R28, R29). -/
  cfg : Profile
  /-- SRC_RES (R35). -/
  srcRes : Word
  /-- SRC_LEN (R35). -/
  srcLen : Word
  /-- ACT_DEPTH, ACT_RES, ACT_MODE, ACT_PMIN, ACT_PMAX (R30, R31). -/
  act : Profile
  /-- PACK_LEN (R34). -/
  packLen : Word
  /-- ERR_INDEX (R36). -/
  errIndex : Word
  /-- ERR_EXP (R36). -/
  errExp : Word64
  /-- ERR_ACT (R36). -/
  errAct : Word64
  /-- PHASE_MEM, CODE_MEM, PACK_MEM and their written-since-reset marks (R39 to R41, R43). -/
  mem : Memory
  /-- The Engine state (R42). -/
  engine : Engine
  /-- The capacities of R7. Assumption log 1. -/
  caps : Config.Caps
  /-- The number of free values drawn so far. Assumption log 2. -/
  draws : Nat
  /-- The Host agent. Assumption log 13. -/
  host : HostAgent
  /-- The schedule. Assumption log 4. -/
  turns : List Turn
  deriving DecidableEq, Repr

/-- The state right after reset (R47) of an instance with capacities `c`, with no host program loaded. -/
def State.resetWith (c : Config.Caps) : State where
  done := false
  overrun := false
  profileValid := false
  err := .noError
  doneIe := false
  cfg := Profile.zero
  srcRes := 0
  srcLen := 0
  act := Profile.zero
  packLen := 0
  errIndex := 0
  errExp := 0
  errAct := 0
  mem := []
  engine := .idle
  caps := c
  draws := 0
  host := ⟨[], 0, []⟩
  turns := []

/-- The machine right after reset (R47, R210), with the sizing R7 gives as its example. -/
def State.reset : State := State.resetWith Config.suggestedCaps

end Sys2Proof.Machine
end

