-- ==== Sys2Proof/Machine/Operands.lean ====
section
/-! DEFINITION. The operands of the commands (30_encoding.md R84): the fields of a profile and their encodings
(R85 to R90), and the shorthand of 00_scope.md R14 with the packed length of 40_profile.md R104. -/

namespace Sys2Proof.Machine

/-- BIT_ORDER (R85). -/
inductive BitOrder where
  | msbFirst
  | lsbFirst
  deriving DecidableEq, Repr

/-- BYTE_LAYOUT (R86). -/
inductive ByteLayout where
  | packedSubbyte
  | leMultibyte
  | beMultibyte
  /-- Encoding 3. VALIDATE rejects it with reason 4, so no valid profile has it (assumption log 11). -/
  | reserved
  deriving DecidableEq, Repr

/-- POLICY (R87). -/
inductive Policy where
  | clamp
  | wrap
  | error
  /-- Encoding 3. VALIDATE rejects it with reason 4, so no valid profile has it (assumption log 11). -/
  | reserved
  deriving DecidableEq, Repr

/-- `MODE[0]`: 0 is MSB_FIRST, 1 is LSB_FIRST (R85). -/
def bitOrderOf (mode : BitVec 7) : BitOrder := if mode.getLsbD 0 then .lsbFirst else .msbFirst

/-- `MODE[2:1]` (R86). -/
def byteLayoutOf (mode : BitVec 7) : ByteLayout :=
  if mode.extractLsb' 1 2 = 0#2 then .packedSubbyte
  else if mode.extractLsb' 1 2 = 1#2 then .leMultibyte
  else if mode.extractLsb' 1 2 = 2#2 then .beMultibyte
  else .reserved

/-- `MODE[6:5]` (R87). -/
def policyOf (mode : BitVec 7) : Policy :=
  if mode.extractLsb' 5 2 = 0#2 then .clamp
  else if mode.extractLsb' 5 2 = 1#2 then .wrap
  else if mode.extractLsb' 5 2 = 2#2 then .error
  else .reserved

/-- `MODE[3]`, ROW_FLIP (R88). -/
def rowFlipOf (mode : BitVec 7) : Bool := mode.getLsbD 3

/-- `MODE[4]`, COL_FLIP (R88). -/
def colFlipOf (mode : BitVec 7) : Bool := mode.getLsbD 4

/-- `RES[15:0]`, the width of a resolution word (R89). -/
def widthOf (res : Word) : Nat := (res.extractLsb' 0 16).toNat

/-- `RES[31:16]`, the height of a resolution word (R89). -/
def heightOf (res : Word) : Nat := (res.extractLsb' 16 16).toNat

/-- Bits 31:0 of a 64-bit quantity, the `_LO` register or the lower address (R90). -/
def loHalf (v : Word64) : Word := v.extractLsb' 0 32

/-- Bits 63:32 of a 64-bit quantity, the `_HI` register or the higher address (R90). -/
def hiHalf (v : Word64) : Word := v.extractLsb' 32 32

/-- One half of a 64-bit quantity: the high half where `high` holds. -/
def halfOf (high : Bool) (v : Word64) : Word := if high then hiHalf v else loHalf v

/-- A 64-bit quantity with one half replaced; the other 32 bits stay (R63, R90). -/
def setHalf (high : Bool) (h : Word) (v : Word64) : Word64 :=
  if high then h ++ loHalf v else hiHalf v ++ h

/-- `zext_64` of a 32-bit value (R8). -/
def zext64 (v : Word) : Word64 := v.setWidth 64

/-- `N`, the bit depth (R14). -/
def Profile.bits (p : Profile) : Nat := p.depth.toNat

/-- `W` (R14). -/
def Profile.width (p : Profile) : Nat := widthOf p.res

/-- `H` (R14). -/
def Profile.height (p : Profile) : Nat := heightOf p.res

/-- `S = W × H` (R14). -/
def Profile.pixels (p : Profile) : Nat := p.width * p.height

/-- `M = 2^N − 1`, the largest code (R14). -/
def Profile.maxCode (p : Profile) : Nat := 2 ^ p.bits - 1

/-- `B = ceil(N / 8)` (R14). -/
def Profile.unitBytes (p : Profile) : Nat := (p.bits + 7) / 8

/-- `lo = val(PMIN)` (R14). -/
def Profile.lo (p : Profile) : ℚ := ratOf p.pmin

/-- `hi = val(PMAX)` (R14). -/
def Profile.hi (p : Profile) : ℚ := ratOf p.pmax

/-- `P = hi − lo` (R14). -/
def Profile.period (p : Profile) : ℚ := p.hi - p.lo

/-- `ORDER` (R14). -/
def Profile.order (p : Profile) : BitOrder := bitOrderOf p.mode

/-- `LAYOUT` (R14). -/
def Profile.layout (p : Profile) : ByteLayout := byteLayoutOf p.mode

/-- `POLICY` (R14). -/
def Profile.policy (p : Profile) : Policy := policyOf p.mode

/-- `RF` (R14). -/
def Profile.rowFlip (p : Profile) : Bool := rowFlipOf p.mode

/-- `CF` (R14). -/
def Profile.colFlip (p : Profile) : Bool := colFlipOf p.mode

/-- The packed length of R104 for bit depth `n`, `s` pixels and a layout: `ceil(n × s / 8)`, or
`s × ceil(n / 8)` for the multibyte layouts. -/
def packedLength (n s : Nat) : ByteLayout → Nat
  | .packedSubbyte => (n * s + 7) / 8
  | .leMultibyte => s * ((n + 7) / 8)
  | .beMultibyte => s * ((n + 7) / 8)
  | .reserved => 0

/-- `L` (R14, R104). -/
def Profile.packedBytes (p : Profile) : Nat := packedLength p.bits p.pixels p.layout

end Sys2Proof.Machine
end

