-- ==== Sys2Proof/Machine/Flags.lean ====
section
/-! DEFINITION. The flags: the STATUS word (10_state.md R26) and the interrupt line (R44). The block has no
other flag (R45). -/

namespace Sys2Proof.Machine

/-- The codes of R180. -/
def errCode : ErrKind → BitVec 4
  | .noError => 0#4
  | .invalidProfile => 1#4
  | .outOfDomain => 2#4
  | .shapeMismatch => 3#4
  | .bufferLengthMismatch => 4#4
  | .codeOutOfRange => 5#4
  | .illegalCommand => 6#4

/-- `STATUS.BUSY = 1` exactly when the Engine state is RUNNING (R42). -/
def engineBusy : Engine → Bool
  | .idle => false
  | .running _ _ => true

/-- STATUS.BUSY (R26, R42). -/
def State.busy (s : State) : Bool := engineBusy s.engine

/-- STATUS.ERR, `ERR_CODE ≠ 0`, "a function of ERR_CODE, not stored" (R26). -/
def State.errFlag (s : State) : Bool := errCode s.err != 0#4

/-- The STATUS word (R26), from bit 31 down: reserved 31:12, ERR_CODE 11:8, reserved 7:5, PROFILE_VALID,
OVERRUN, ERR, DONE, BUSY. -/
def statusWord (s : State) : Word :=
  0#20 ++ errCode s.err ++ 0#3 ++ BitVec.ofBool s.profileValid ++ BitVec.ofBool s.overrun ++
    BitVec.ofBool s.errFlag ++ BitVec.ofBool s.done ++ BitVec.ofBool s.busy

/-- A host write to STATUS (R26): bits 1 and 3 are W1C, every other bit ignores the write. -/
def statusWrite (v : Word) (s : State) : State :=
  { s with
    done := s.done && !(v.getLsbD 1)
    overrun := s.overrun && !(v.getLsbD 3) }

/-- The interrupt output, `IRQ = STATUS.DONE AND IRQ_EN.DONE_IE`, active high (R44, R188). -/
def State.irq (s : State) : Bool := s.done && s.doneIe

end Sys2Proof.Machine
end

