-- ==== Sys2Proof/Machine/Ops.lean ====
section
/-! DEFINITION. The shared operations: bytes of memory, free values, the Engine's buffer primitives (00_scope.md
R10), the ranges of a command (20_memory.md R71), start, completion and errors (60_exceptions.md R181,
R186, R187).

`raiseError` is the one way a command takes an error. The block has no trap: no vector, no saved program
counter, no mode (R191), and there is no return from an error (R192): after it the Engine is IDLE. -/

namespace Sys2Proof.Machine

/-! ### Bytes -/

/-- The byte stored at an address, if one is. -/
def memByte? : Memory → Nat → Option Byte
  | [], _ => none
  | (k, v) :: m, a => if k = a then some v else memByte? m a

/-- Store a byte, keeping the addresses strictly rising. -/
def memSet : Memory → Nat → Byte → Memory
  | [], a, b => [(a, b)]
  | (k, v) :: m, a, b =>
    if a < k then (a, b) :: (k, v) :: m
    else if a = k then (a, b) :: m
    else (k, v) :: memSet m a b

/-- The little-endian number in the `n` bytes from `a` (20_memory.md R67), if all are stored. -/
def memRead? (m : Memory) (a : Nat) : Nat → Option Nat
  | 0 => some 0
  | n + 1 =>
    match memByte? m a, memRead? m (a + 1) n with
    | some b, some v => some (b.toNat + 256 * v)
    | some _, none => none
    | none, some _ => none
    | none, none => none

/-- Store the low `n` bytes of `v` from `a` up, least significant first (R67). -/
def memWrite (m : Memory) (a : Nat) : Nat → Nat → Memory
  | 0, _ => m
  | n + 1, v => memWrite (memSet m a (BitVec.ofNat 8 v)) (a + 1) n (v / 256)

/-! ### Windows (R61) -/

/-- First address of the PHASE window. -/
def phaseBase : Nat := 0x10000000

/-- First address of the CODE window. -/
def codeBase : Nat := 0x20000000

/-- First address of the PACK window. -/
def packBase : Nat := 0x30000000

/-- Bus address of PHASE_MEM entry `i` (R63). -/
def phaseAddr (i : Nat) : Nat := phaseBase + 8 * i

/-- Bus address of CODE_MEM entry `i` (R64). -/
def codeAddr (i : Nat) : Nat := codeBase + 4 * i

/-- Bus address of PACK_MEM byte `k` (R65). -/
def packAddr (k : Nat) : Nat := packBase + k

/-- The stored PHASE_MEM entry `i`, or none where its mark is clear (R39, R43). -/
def phaseWord? (m : Memory) (i : Nat) : Option Word64 :=
  (memRead? m (phaseAddr i) 8).map (BitVec.ofNat 64)

/-- The stored CODE_MEM entry `i`, or none where its mark is clear (R40, R43). -/
def codeWord? (m : Memory) (i : Nat) : Option Word :=
  (memRead? m (codeAddr i) 4).map (BitVec.ofNat 32)

/-- The stored PACK_MEM byte `k`, or none where its mark is clear (R41, R43). -/
def packByte? (m : Memory) (k : Nat) : Option Byte := memByte? m (packAddr k)

/-! ### Free values (R43; 93 I1, I2, I4) -/

/-- The next free value. -/
def State.drawn (s : State) : Word64 := Config.freeValue s.draws

/-- The state once the next free value is used up. -/
def State.drewOne (s : State) : State := { s with draws := s.draws + 1 }

/-! ### The Engine's buffer primitives (R10) -/

/-- `PhaseRead(i)`: the stored word, or a free value (R43). -/
def phaseRead (i : Nat) (s : State) : Word64 × State :=
  match phaseWord? s.mem i with
  | some w => (w, s)
  | none => (s.drawn, s.drewOne)

/-- `CodeRead(i)`: the stored word, or a free value (R43). -/
def codeRead (i : Nat) (s : State) : Word × State :=
  match codeWord? s.mem i with
  | some c => (c, s)
  | none => (s.drawn.setWidth 32, s.drewOne)

/-- `PackRead(k)`: the stored byte, or a free value (R43). -/
def packRead (k : Nat) (s : State) : Byte × State :=
  match packByte? s.mem k with
  | some b => (b, s)
  | none => (s.drawn.setWidth 8, s.drewOne)

/-- `PhaseWrite(i, w)`. -/
def phaseWrite (i : Nat) (w : Word64) (s : State) : State :=
  { s with mem := memWrite s.mem (phaseAddr i) 8 w.toNat }

/-- `CodeWrite(i, c)`. -/
def codeWrite (i : Nat) (c : Word) (s : State) : State :=
  { s with mem := memWrite s.mem (codeAddr i) 4 c.toNat }

/-- `PackWrite(k, b)`. -/
def packWrite (k : Nat) (b : Byte) (s : State) : State :=
  { s with mem := memSet s.mem (packAddr k) b }

/-! ### Loops over a range -/

/-- `for i in 0, 1, …, n−1: s <- f i s`. -/
def forRange : Nat → (Nat → State → State) → State → State
  | 0, _, s => s
  | n + 1, f, s => f n (forRange n f s)

/-- Read `n` elements from index `i` up, each exactly once. -/
def readFrom {α : Type} (rd : Nat → State → α × State) (i : Nat) : Nat → State → List α × State
  | 0, s => ([], s)
  | n + 1, s =>
    ((rd i s).1 :: (readFrom rd (i + 1) n (rd i s).2).1, (readFrom rd (i + 1) n (rd i s).2).2)

/-- The element checks in ascending index (60_exceptions.md R183 step 4): the converted elements, or the
lowest failing index with its error. `i` is the index of the list's first element. -/
def checkEach {α β ε : Type} (f : α → Except ε β) : Nat → List α → Except (Nat × ε) (List β)
  | _, [] => .ok []
  | i, a :: as =>
    match f a with
    | .error e => .error (i, e)
    | .ok b =>
      match checkEach f (i + 1) as with
      | .error e => .error e
      | .ok bs => .ok (b :: bs)

/-- "Every word of the destination range is drawn" (93 I2; R185): CODE_MEM[0..n−1]. -/
def scrambleCodes (n : Nat) (s : State) : State :=
  forRange n (fun i t => codeWrite i (t.drawn.setWidth 32) t.drewOne) s

/-- "Every word of the destination range is drawn" (93 I2; R185): PHASE_MEM[0..n−1]. -/
def scramblePhases (n : Nat) (s : State) : State :=
  forRange n (fun i t => phaseWrite i t.drawn t.drewOne) s

/-- "Every word of the destination range is drawn" (93 I2; R185): PACK_MEM bytes [0..n−1]. -/
def scramblePacked (n : Nat) (s : State) : State :=
  forRange n (fun k t => packWrite k (t.drawn.setWidth 8) t.drewOne) s

/-! ### Start, completion, error -/

/-- `decode(cw)` of R187: the command, or ILLEGAL. -/
def opOf (cw : Word) : Op :=
  match decode cw with
  | .ok i => .command i
  | .error _ => .illegal

/-- What a start with command word `cw` samples (R187; the staging registers by R106, assumption log 6). -/
def State.sample (s : State) (cw : Word) : Snap := ⟨cw, s.srcRes, s.srcLen, s.cfg⟩

/-- The snapshot of the running command. Outside a running command a meaning samples the registers as
they stand, with command word 0 (assumption log 18); no step does that. -/
def State.snap (s : State) : Snap :=
  match s.engine with
  | .running _ snap => snap
  | .idle => s.sample 0

/-- The start of a command (R187). OVERRUN, PROFILE_VALID and the profile registers do not change. -/
def startCommand (cw : Word) (s : State) : State :=
  { s with
    done := false
    err := .noError
    errIndex := 0
    errExp := 0
    errAct := 0
    engine := .running (opOf cw) (s.sample cw) }

/-- The completion of a command (R186). -/
def completeWith (k : ErrKind) (index : Word) (expected actual : Word64) (s : State) : State :=
  { s with
    err := k
    errIndex := index
    errExp := expected
    errAct := actual
    engine := .idle
    done := true }

/-- `complete()`: success, with context `(NONE, 0, 0, 0)` (R186). -/
def completeOk (s : State) : State := completeWith .noError 0 0 0 s

/-- `raise Error(KIND, index, expected, actual)` (R181): "performs the completion of rule R186 with …
`ERR_INDEX = index[31:0]`". -/
def raiseError (k : ErrKind) (index : Nat) (expected actual : Word64) (s : State) : State :=
  completeWith k (BitVec.ofNat 32 index) expected actual s

/-- An illegal command "does nothing but complete with ILLEGAL_COMMAND", its word in ERR_ACT (R82, R182). -/
def illegalCommand (s : State) : State := raiseError .illegalCommand 0 0 (zext64 s.snap.cmd) s

/-- The profile gate (R107), before any other check of a command that needs a profile. -/
def profileGate (s : State) (k : State → State) : State :=
  if s.profileValid then k s else raiseError .invalidProfile 7 0 0 s

/-- The shape check of QUANTIZE, DEQUANTIZE and PACK (R183 step 3, R182). -/
def shapeCheck (s : State) (k : State → State) : State :=
  if s.snap.srcRes = s.act.res then k s
  else raiseError .shapeMismatch 0 (zext64 s.act.res) (zext64 s.snap.srcRes) s

/-- The length check of UNPACK (R162, R183 step 3). Its `L` is the PACK_LEN register, which R84 lists among
UNPACK's operands (assumption log 16). -/
def lengthCheck (s : State) (k : State → State) : State :=
  if s.snap.srcLen = s.packLen then k s
  else raiseError .bufferLengthMismatch 0 (zext64 s.packLen) (zext64 s.snap.srcLen) s

/-! ### The ranges of a command (R71) -/

/-- The three buffers (R39 to R41). -/
inductive Buffer where
  | phase
  | code
  | pack
  deriving DecidableEq, Repr

/-- The buffer a command reads (R71). -/
def opSource : Op → Option Buffer
  | .command .validate => none
  | .command .quantize => some .phase
  | .command .dequantize => some .code
  | .command .pack => some .code
  | .command .unpack => some .pack
  | .illegal => none

/-- The buffer a command writes (R71). -/
def opTarget : Op → Option Buffer
  | .command .validate => none
  | .command .quantize => some .code
  | .command .dequantize => some .phase
  | .command .pack => some .pack
  | .command .unpack => some .code
  | .illegal => none

/-- How many words of a buffer a command's range covers: `S` entries, or `L` bytes, of the active
profile (R71). -/
def rangeLength (p : Profile) : Buffer → Nat
  | .phase => p.pixels
  | .code => p.pixels
  | .pack => p.packedBytes

/-- Word `i` of buffer `b` is in the running command's destination range (R216). -/
def State.engineWrites (s : State) (b : Buffer) (i : Nat) : Bool :=
  match s.engine with
  | .idle => false
  | .running op _ => opTarget op == some b && decide (i < rangeLength s.act b)

/-- Word `i` of buffer `b` is in the running command's read or write range (R215). -/
def State.engineUses (s : State) (b : Buffer) (i : Nat) : Bool :=
  match s.engine with
  | .idle => false
  | .running op _ =>
    (opSource op == some b || opTarget op == some b) && decide (i < rangeLength s.act b)

end Sys2Proof.Machine
end

