-- ==== Sys2Proof/Machine/Quantize.lean ====
section
/-! DEFINITION. The Quantizer: QUANTIZE and DEQUANTIZE (41_quantize.md R120 to R131). -/

namespace Sys2Proof.Machine

/-- What the phase-to-code map gives for one sample (41_quantize.md, the full map after R128). -/
inductive QResult where
  /-- `CODE(c)`. -/
  | code (c : Word)
  /-- `OOD(b)`: out of domain, with its bound word. -/
  | ood (bound : Word64)
  deriving DecidableEq, Repr

/-- The scaling of R127, `rne((u − lo) / P × M)`, exact but for `rne` (R121). -/
def scaleCode (p : Profile) (u : ℚ) : ℤ := rne ((u - p.lo) / p.period * (p.maxCode : ℚ))

/-- The code of a value after the policy step, as a CODE_MEM word (R127, R128). -/
def codeOf (p : Profile) (u : ℚ) : QResult := .code (BitVec.ofInt 32 (scaleCode p u))

/-- The CLAMP step, `min(max(v, lo), hi)` (R122). -/
def clampValue (p : Profile) (v : ℚ) : ℚ := min (max v p.lo) p.hi

/-- The WRAP step, `lo + ((v − lo) − P × floor((v − lo) / P))` (R123). -/
def wrapValue (p : Profile) (v : ℚ) : ℚ :=
  p.lo + ((v - p.lo) - p.period * (((v - p.lo) / p.period).floor : ℚ))

/-- The map for a finite sample (R122 to R124). -/
def qmapNum (p : Profile) (v : ℚ) : QResult :=
  match p.policy with
  | .clamp => codeOf p (clampValue p v)
  | .wrap => codeOf p (wrapValue p v)
  | .error => if p.hi < v then .ood p.pmax else if v < p.lo then .ood p.pmin else codeOf p v
  | .reserved => .ood 0

/-- The map for an infinite sample (R126): `bound` is the range word on its side and `u` its value. -/
def qmapInf (p : Profile) (bound : Word64) (u : ℚ) : QResult :=
  match p.policy with
  | .clamp => codeOf p u
  | .wrap => .ood bound
  | .error => .ood bound
  | .reserved => .ood 0

/-- `qmap(w)` (the full map after R128). A NaN is out of domain under every policy (R125). -/
def qmap (p : Profile) (w : Word64) : QResult :=
  match val w with
  | .nan => .ood 0
  | .posInf => qmapInf p p.pmax p.hi
  | .negInf => qmapInf p p.pmin p.lo
  | .num v => qmapNum p v

/-- The element step of QUANTIZE (R129): a code, or the error context (bound word, sample word). -/
def quantizeElement (p : Profile) (w : Word64) : Except (Word64 × Word64) Word :=
  match qmap p w with
  | .code c => .ok c
  | .ood b => .error (b, w)

/-- The check PACK and DEQUANTIZE make of a CODE_MEM word (R131, R160): above `M` is CODE_OUT_OF_RANGE with
context (`M`, the word). -/
def codeElement (p : Profile) (c : Word) : Except (Word64 × Word64) Word :=
  if p.maxCode < c.toNat then .error (BitVec.ofNat 64 p.maxCode, zext64 c) else .ok c

/-- `dmap(c) = fl64(lo + c × P / M)` (R130). -/
def dmap (p : Profile) (c : Word) : Word64 :=
  fl64 (p.lo + (c.toNat : ℚ) * p.period / (p.maxCode : ℚ))

/-- The end of a command that checks its elements (R183 step 4, R185): on an error the destination range is
drawn and the error raised at the failing index, else the results are written. -/
def finishElements {β : Type} (k : ErrKind) (r : Except (Nat × (Word64 × Word64)) (List β))
    (scramble : State → State) (write : List β → State → State) (s : State) : State :=
  match r with
  | .error e => raiseError k e.1 e.2.1 e.2.2 (scramble s)
  | .ok bs => completeOk (write bs s)

/-- CODE_MEM[0..] from a list. -/
def writeCodes (cs : List Word) (s : State) : State :=
  forRange cs.length (fun i t => codeWrite i (cs.getD i 0) t) s

/-- PHASE_MEM[0..] from a list. -/
def writePhases (ws : List Word64) (s : State) : State :=
  forRange ws.length (fun i t => phaseWrite i (ws.getD i 0) t) s

/-- The scan of QUANTIZE after its checks (R129). -/
def quantizeScan (s : State) : State :=
  finishElements .outOfDomain
    (checkEach (quantizeElement s.act) 0 (readFrom phaseRead 0 s.act.pixels s).1)
    (scrambleCodes s.act.pixels) writeCodes
    (readFrom phaseRead 0 s.act.pixels s).2

/-- QUANTIZE (R129). -/
def quantizeCommand (s : State) : State := profileGate s fun s => shapeCheck s quantizeScan

/-- QUANTIZE, opcode 0x2 (R129). -/
def execQuantize (s : State) : Host.Outcome State Fault Refusal := .next (quantizeCommand s)

/-- The scan of DEQUANTIZE after its checks (R131). -/
def dequantizeScan (s : State) : State :=
  finishElements .codeOutOfRange
    (checkEach (codeElement s.act) 0 (readFrom codeRead 0 s.act.pixels s).1)
    (scramblePhases s.act.pixels) (fun cs => writePhases (cs.map (dmap s.act)))
    (readFrom codeRead 0 s.act.pixels s).2

/-- DEQUANTIZE (R131). -/
def dequantizeCommand (s : State) : State := profileGate s fun s => shapeCheck s dequantizeScan

/-- DEQUANTIZE, opcode 0x3 (R131). -/
def execDequantize (s : State) : Host.Outcome State Fault Refusal := .next (dequantizeCommand s)

end Sys2Proof.Machine
end

