-- ==== Sys2Proof/Machine/Pack.lean ====
section
/-! DEFINITION. The BitPacker and BitUnpacker: PACK and UNPACK (42_pack.md R150 to R162). -/

namespace Sys2Proof.Machine

/-- `src(s)`: the source index of stream position `s` (R150, R151). -/
def sourceIndex (p : Profile) (s : Nat) : Nat :=
  (if p.rowFlip then p.height - 1 - s / p.width else s / p.width) * p.width +
    (if p.colFlip then p.width - 1 - s % p.width else s % p.width)

/-- `Σ_{m < n} b(m) × 2^m`. -/
def natOfBits : Nat → (Nat → Bool) → Nat
  | 0, _ => 0
  | n + 1, b => natOfBits n b + (b n).toNat * 2 ^ n

/-- `Σ_{j < n} b(j) × 2^(8j)`. -/
def natOfBytes : Nat → (Nat → Byte) → Nat
  | 0, _ => 0
  | n + 1, b => natOfBytes n b + (b n).toNat * 2 ^ (8 * n)

/-- `b(t)` of R153: each code's bits, most significant first; past the last code, padding 0 (R155). -/
def streamBitMsb (p : Profile) (q : Nat → Word) (t : Nat) : Bool :=
  decide (t < p.bits * p.pixels) && (q (t / p.bits)).getLsbD (p.bits - 1 - t % p.bits)

/-- `b(t)` of R154: each code's bits, least significant first; past the last code, padding 0 (R155). -/
def streamBitLsb (p : Profile) (q : Nat → Word) (t : Nat) : Bool :=
  decide (t < p.bits * p.pixels) && (q (t / p.bits)).getLsbD (t % p.bits)

/-- `byte(k)` of the packed buffer for the codes `q` in stream order (R153, R154, R156, R157). -/
def packedByte (p : Profile) (q : Nat → Word) (k : Nat) : Byte :=
  match p.layout with
  | .packedSubbyte =>
    match p.order with
    | .msbFirst => BitVec.ofNat 8 (natOfBits 8 fun m => streamBitMsb p q (8 * k + (7 - m)))
    | .lsbFirst => BitVec.ofNat 8 (natOfBits 8 fun m => streamBitLsb p q (8 * k + m))
  | .leMultibyte => (q (k / p.unitBytes)).extractLsb' (8 * (k % p.unitBytes)) 8
  | .beMultibyte => (q (k / p.unitBytes)).extractLsb' (8 * (p.unitBytes - 1 - k % p.unitBytes)) 8
  | .reserved => 0

/-- PACK_MEM bytes [0..L−1] from the codes in source order (R151, R160). -/
def writePacked (p : Profile) (cs : List Word) (s : State) : State :=
  forRange p.packedBytes
    (fun k t => packWrite k (packedByte p (fun i => cs.getD (sourceIndex p i) 0) k) t) s

/-- The scan of PACK after its checks (R160): every word is read exactly once. -/
def packScan (s : State) : State :=
  finishElements .codeOutOfRange
    (checkEach (codeElement s.act) 0 (readFrom codeRead 0 s.act.pixels s).1)
    (scramblePacked s.act.packedBytes) (writePacked s.act)
    (readFrom codeRead 0 s.act.pixels s).2

/-- PACK (R160). -/
def packCommand (s : State) : State := profileGate s fun s => shapeCheck s packScan

/-- PACK, opcode 0x4 (R160). -/
def execPack (s : State) : Host.Outcome State Fault Refusal := .next (packCommand s)

/-- `q(s)` extracted from the bytes (R161). Padding bits and unused unit bits are never read. -/
def extractCode (p : Profile) (b : Nat → Byte) (s : Nat) : Word :=
  match p.layout with
  | .packedSubbyte =>
    match p.order with
    | .msbFirst =>
      BitVec.ofNat 32 (natOfBits p.bits fun j =>
        (b ((s * p.bits + (p.bits - 1 - j)) / 8)).getLsbD (7 - (s * p.bits + (p.bits - 1 - j)) % 8))
    | .lsbFirst =>
      BitVec.ofNat 32 (natOfBits p.bits fun j =>
        (b ((s * p.bits + j) / 8)).getLsbD ((s * p.bits + j) % 8))
  | .leMultibyte =>
    BitVec.ofNat 32 (natOfBytes p.unitBytes (fun j => b (s * p.unitBytes + j)) % 2 ^ p.bits)
  | .beMultibyte =>
    BitVec.ofNat 32
      (natOfBytes p.unitBytes (fun j => b (s * p.unitBytes + (p.unitBytes - 1 - j))) % 2 ^ p.bits)
  | .reserved => 0

/-- CODE_MEM[0..S−1] from the packed bytes: stream position `s` goes to source index `src(s)` (R162). -/
def writeExtracted (p : Profile) (bs : List Byte) (s : State) : State :=
  forRange p.pixels
    (fun i t => codeWrite (sourceIndex p i) (extractCode p (fun k => bs.getD k 0) i) t) s

/-- The body of UNPACK after its checks (R162): each byte is read exactly once. -/
def unpackScan (s : State) : State :=
  completeOk (writeExtracted s.act (readFrom packRead 0 s.act.packedBytes s).1
    (readFrom packRead 0 s.act.packedBytes s).2)

/-- UNPACK (R162). -/
def unpackCommand (s : State) : State := profileGate s fun s => lengthCheck s unpackScan

/-- UNPACK, opcode 0x5 (R162). -/
def execUnpack (s : State) : Host.Outcome State Fault Refusal := .next (unpackCommand s)

end Sys2Proof.Machine
end

