-- ==== Sys2Proof/Machine/Validate.lean ====
section
/-! DEFINITION. VALIDATE (40_profile.md R100 to R106). -/

namespace Sys2Proof.Machine

/-- Check 3 fails (R101): a bound is not finite, or `val(PMIN) ≥ val(PMAX)` by exact value. -/
def rangeInvalid (p : Profile) : Bool :=
  !((val p.pmin).isFinite && (val p.pmax).isFinite) || decide (p.hi ≤ p.lo)

/-- The first failing check of R101 as (reason, expected, actual), in the order of R102's pseudocode. -/
def profileError? (c : Config.Caps) (p : Profile) : Option (Nat × Word64 × Word64) :=
  if p.bits = 0 ∨ Config.maxBitDepth < p.bits then some (1, 32, BitVec.ofNat 64 p.bits)
  else if p.width = 0 ∨ p.height = 0 then some (2, 0, zext64 p.res)
  else if rangeInvalid p then some (3, p.pmax, p.pmin)
  else if p.layout = .reserved ∨ p.policy = .reserved then some (4, 0, p.mode.setWidth 64)
  else if p.layout = .packedSubbyte ∧ 8 < p.bits then some (5, 8, BitVec.ofNat 64 p.bits)
  else if c.phaseEntries < p.pixels then
    some (6, BitVec.ofNat 64 c.phaseEntries, BitVec.ofNat 64 p.pixels)
  else if c.codeEntries < p.pixels then
    some (6, BitVec.ofNat 64 c.codeEntries, BitVec.ofNat 64 p.pixels)
  else if c.packBytes < p.packedBytes then
    some (6, BitVec.ofNat 64 c.packBytes, BitVec.ofNat 64 p.packedBytes)
  else none

/-- `invalidate()` (R105). -/
def invalidateProfile (s : State) : State :=
  { s with profileValid := false, packLen := 0, act := Profile.zero }

/-- A successful VALIDATE latches the staging profile bit for bit, and sets PACK_LEN (R103). -/
def latchProfile (p : Profile) (s : State) : State :=
  { s with act := p, packLen := BitVec.ofNat 32 p.packedBytes, profileValid := true }

/-- VALIDATE on the staging profile sampled at the start (R102, R106). -/
def validateCommand (s : State) : State :=
  match profileError? s.caps s.snap.cfg with
  | some e => raiseError .invalidProfile e.1 e.2.1 e.2.2 (invalidateProfile s)
  | none => completeOk (latchProfile s.snap.cfg s)

/-- VALIDATE, opcode 0x1 (R102). -/
def execValidate (s : State) : Host.Outcome State Fault Refusal := .next (validateCommand s)

end Sys2Proof.Machine
end

