-- ==== Sys2Proof/Machine/Dispatch.lean ====
section
/-! DEFINITION. The dispatch of a command to its meaning (30_encoding.md R81). -/

namespace Sys2Proof.Machine

/-- The Engine runs a command from its start to its completion as one step (10_state.md R42). -/
def exec (i : Instr) (s : State) : Host.Outcome State Fault Refusal :=
  match i with
  | .validate => Sys2Proof.Machine.execValidate s
  | .quantize => Sys2Proof.Machine.execQuantize s
  | .dequantize => Sys2Proof.Machine.execDequantize s
  | .pack => Sys2Proof.Machine.execPack s
  | .unpack => Sys2Proof.Machine.execUnpack s

end Sys2Proof.Machine
end

