-- ==== Sys2Proof/Machine/Registers.lean ====
section
/-! DEFINITION. The register file (10_state.md R23): every listed register, its offset, what a read returns and
what a write does (20_memory.md R62). -/

namespace Sys2Proof.Machine

/-- The registers R23 lists. -/
inductive Reg where
  | id | version | cmd | status | irqEn
  | cfgDepth | cfgRes | cfgMode | cfgPminLo | cfgPminHi | cfgPmaxLo | cfgPmaxHi
  | srcRes | srcLen
  | actDepth | actRes | actMode | actPminLo | actPminHi | actPmaxLo | actPmaxHi
  | packLen
  | errIndex | errExpLo | errExpHi | errActLo | errActHi
  | capPhase | capCode | capPack | capDepth
  deriving DecidableEq, Repr

/-- The byte offset of a register from the base of the register window (R23). -/
def regOffset : Reg → Nat
  | .id => 0x000
  | .version => 0x004
  | .cmd => 0x008
  | .status => 0x00C
  | .irqEn => 0x010
  | .cfgDepth => 0x020
  | .cfgRes => 0x024
  | .cfgMode => 0x028
  | .cfgPminLo => 0x030
  | .cfgPminHi => 0x034
  | .cfgPmaxLo => 0x038
  | .cfgPmaxHi => 0x03C
  | .srcRes => 0x040
  | .srcLen => 0x044
  | .actDepth => 0x060
  | .actRes => 0x064
  | .actMode => 0x068
  | .actPminLo => 0x070
  | .actPminHi => 0x074
  | .actPmaxLo => 0x078
  | .actPmaxHi => 0x07C
  | .packLen => 0x080
  | .errIndex => 0x0A0
  | .errExpLo => 0x0A4
  | .errExpHi => 0x0A8
  | .errActLo => 0x0AC
  | .errActHi => 0x0B0
  | .capPhase => 0x0C0
  | .capCode => 0x0C4
  | .capPack => 0x0C8
  | .capDepth => 0x0CC

/-- Every register, in the order of R23's table. -/
def allRegs : List Reg :=
  [.id, .version, .cmd, .status, .irqEn,
   .cfgDepth, .cfgRes, .cfgMode, .cfgPminLo, .cfgPminHi, .cfgPmaxLo, .cfgPmaxHi,
   .srcRes, .srcLen,
   .actDepth, .actRes, .actMode, .actPminLo, .actPminHi, .actPmaxLo, .actPmaxHi,
   .packLen,
   .errIndex, .errExpLo, .errExpHi, .errActLo, .errActHi,
   .capPhase, .capCode, .capPack, .capDepth]

/-- The register at an offset, if R23 lists one there: "Any offset in the register window not listed here
is reserved". -/
def regAt (offset : Nat) : Option Reg := allRegs.find? (fun r => regOffset r == offset)

/-- The bus address of a register: its offset, since the register window starts at 0 (R61). -/
def regAddr (r : Reg) : Word := BitVec.ofNat 32 (regOffset r)

/-- A 32-bit read of a register (R23 and the field rules R24 to R37); reserved bits read 0 (R38), CMD reads
0 (R25). No read changes anything (R70). -/
def readReg (r : Reg) (s : State) : Word :=
  match r with
  | .id => 0x504C4D43#32
  | .version => 0x00000701#32
  | .cmd => 0#32
  | .status => statusWord s
  | .irqEn => (BitVec.ofBool s.doneIe).setWidth 32
  | .cfgDepth => s.cfg.depth.setWidth 32
  | .cfgRes => s.cfg.res
  | .cfgMode => s.cfg.mode.setWidth 32
  | .cfgPminLo => loHalf s.cfg.pmin
  | .cfgPminHi => hiHalf s.cfg.pmin
  | .cfgPmaxLo => loHalf s.cfg.pmax
  | .cfgPmaxHi => hiHalf s.cfg.pmax
  | .srcRes => s.srcRes
  | .srcLen => s.srcLen
  | .actDepth => s.act.depth.setWidth 32
  | .actRes => s.act.res
  | .actMode => s.act.mode.setWidth 32
  | .actPminLo => loHalf s.act.pmin
  | .actPminHi => hiHalf s.act.pmin
  | .actPmaxLo => loHalf s.act.pmax
  | .actPmaxHi => hiHalf s.act.pmax
  | .packLen => s.packLen
  | .errIndex => s.errIndex
  | .errExpLo => loHalf s.errExp
  | .errExpHi => hiHalf s.errExp
  | .errActLo => loHalf s.errAct
  | .errActHi => hiHalf s.errAct
  | .capPhase => BitVec.ofNat 32 s.caps.phaseEntries
  | .capCode => BitVec.ofNat 32 s.caps.codeEntries
  | .capPack => BitVec.ofNat 32 s.caps.packBytes
  | .capDepth => BitVec.ofNat 32 Config.maxBitDepth

/-- A write to CMD (R25): a start while the Engine is IDLE (R187), else the write is dropped and OVERRUN set
(R189). -/
def cmdWrite (cw : Word) (s : State) : State :=
  if s.busy then { s with overrun := true } else startCommand cw s

/-- A 32-bit write of a register (R62): RW fields are stored, RO fields and RAZ/WI bits ignored, W1C bits
cleared, and CMD starts a command. -/
def writeReg (r : Reg) (v : Word) (s : State) : State :=
  match r with
  | .id => s
  | .version => s
  | .cmd => cmdWrite v s
  | .status => statusWrite v s
  | .irqEn => { s with doneIe := v.getLsbD 0 }
  | .cfgDepth => { s with cfg := { s.cfg with depth := v.setWidth 6 } }
  | .cfgRes => { s with cfg := { s.cfg with res := v } }
  | .cfgMode => { s with cfg := { s.cfg with mode := v.setWidth 7 } }
  | .cfgPminLo => { s with cfg := { s.cfg with pmin := setHalf false v s.cfg.pmin } }
  | .cfgPminHi => { s with cfg := { s.cfg with pmin := setHalf true v s.cfg.pmin } }
  | .cfgPmaxLo => { s with cfg := { s.cfg with pmax := setHalf false v s.cfg.pmax } }
  | .cfgPmaxHi => { s with cfg := { s.cfg with pmax := setHalf true v s.cfg.pmax } }
  | .srcRes => { s with srcRes := v }
  | .srcLen => { s with srcLen := v }
  | .actDepth => s
  | .actRes => s
  | .actMode => s
  | .actPminLo => s
  | .actPminHi => s
  | .actPmaxLo => s
  | .actPmaxHi => s
  | .packLen => s
  | .errIndex => s
  | .errExpLo => s
  | .errExpHi => s
  | .errActLo => s
  | .errActHi => s
  | .capPhase => s
  | .capCode => s
  | .capPack => s
  | .capDepth => s

end Sys2Proof.Machine
end

