-- ==== Sys2Proof/Machine/Bus.lean ====
section
/-! DEFINITION. The host bus port (20_memory.md R60 to R70): which accesses a window accepts, what a read
returns and what a write does. Addresses are relative to the block's base address (R61). -/

namespace Sys2Proof.Machine

/-- The number of bytes of an access. -/
def widthBytes : Width → Nat
  | .w8 => 1
  | .w16 => 2
  | .w32 => 4

/-- What an accepted access addresses. -/
inductive BusTarget where
  /-- A register (R62). -/
  | reg (r : Reg)
  /-- One half of PHASE_MEM entry `i` (R63). -/
  | phase (i : Nat) (high : Bool)
  /-- CODE_MEM entry `i` (R64). -/
  | code (i : Nat)
  /-- `n` bytes of PACK_MEM from byte `k` (R65). -/
  | pack (k n : Nat)
  deriving DecidableEq, Repr

/-- The address map of R61 with the widths, alignments and backed parts of R62 to R66. `none` is a bus
error: a reserved address, an address past the backed part, a width the window does not accept, or a
misaligned access (R66). -/
def busTarget (c : Config.Caps) (w : Width) (addr : Word) : Option BusTarget :=
  let a := addr.toNat
  if a < 0x1000 then
    if w = .w32 ∧ a % 4 = 0 then (regAt a).map .reg else none
  else if phaseBase ≤ a ∧ a < codeBase then
    if w = .w32 ∧ a % 4 = 0 ∧ a - phaseBase < 8 * c.phaseEntries then
      some (.phase ((a - phaseBase) / 8) ((a - phaseBase) % 8 == 4))
    else none
  else if codeBase ≤ a ∧ a < packBase then
    if w = .w32 ∧ a % 4 = 0 ∧ a - codeBase < 4 * c.codeEntries then
      some (.code ((a - codeBase) / 4))
    else none
  else if packBase ≤ a ∧ a < 0x40000000 then
    if a % widthBytes w = 0 ∧ a - packBase + widthBytes w ≤ c.packBytes then
      some (.pack (a - packBase) (widthBytes w))
    else none
  else none

/-- A host read of one PACK_MEM byte: a free value in the running command's destination range (R216) or
where the mark is clear (R43), else the stored byte. -/
def hostPackByte (k : Nat) (s : State) : Byte × State :=
  if s.engineWrites .pack k then (s.drawn.setWidth 8, s.drewOne) else packRead k s

/-- The bytes `k` to `k + n − 1` of PACK_MEM as bus data, byte `k` in the least significant lane (R65,
R67). -/
def hostPackLanes (k : Nat) : Nat → State → Nat × State
  | 0, s => (0, s)
  | n + 1, s =>
    ((hostPackByte k s).1.toNat + 256 * (hostPackLanes (k + 1) n (hostPackByte k s).2).1,
      (hostPackLanes (k + 1) n (hostPackByte k s).2).2)

/-- Whether a target word is in the running command's destination range (R216). -/
def targetWritten (s : State) : BusTarget → Bool
  | .reg _ => false
  | .phase i _ => s.engineWrites .phase i
  | .code i => s.engineWrites .code i
  | .pack _ _ => false

/-- The data of an accepted read, and the state after it, which differs only in the free values drawn (R70).
A word in the running command's destination range reads as a free value (R216); PACK_MEM decides that
byte by byte. -/
def readTarget (t : BusTarget) (s : State) : Word × State :=
  match t with
  | .reg r => (readReg r s, s)
  | .phase i high =>
    if targetWritten s (.phase i high) then (halfOf high s.drawn, s.drewOne)
    else (halfOf high (phaseRead i s).1, (phaseRead i s).2)
  | .code i =>
    if targetWritten s (.code i) then (s.drawn.setWidth 32, s.drewOne) else codeRead i s
  | .pack k n => (BitVec.ofNat 32 (hostPackLanes k n s).1, (hostPackLanes k n s).2)

/-- Whether a write to a target is a host race: it covers a word of the running command's read or write
range (R215). -/
def targetRaces (s : State) : BusTarget → Bool
  | .reg _ => false
  | .phase i _ => s.engineUses .phase i
  | .code i => s.engineUses .code i
  | .pack k n => (List.range n).any (fun j => s.engineUses .pack (k + j))

/-- The effect of an accepted write. A write to one half of a PHASE_MEM entry whose mark is clear sets the
mark, so the other half becomes a stored value, drawn once (R63, R43; assumption log 7). -/
def writeTarget (t : BusTarget) (v : Word) (s : State) : State :=
  match t with
  | .reg r => writeReg r v s
  | .phase i high => phaseWrite i (setHalf high v (phaseRead i s).1) (phaseRead i s).2
  | .code i => codeWrite i v s
  | .pack k n => { s with mem := memWrite s.mem (packAddr k) n v.toNat }

/-- `MemRead(addr, n)` by the Host (R10). A bus error is a fault of the host program (R190) that carries the
response's data: "a faulting read returns 0 with the error response" (R66). -/
def busRead (w : Width) (addr : Word) (s : State) : Except Fault (Word × State) :=
  match busTarget s.caps w addr with
  | none => .error (.busReadError 0)
  | some t => .ok (readTarget t s)

/-- `MemWrite(addr, n, v)` by the Host (R10). A bus error is taken before any state changes (R66); a write
in the running command's ranges is the `HostRace` fault (R215). -/
def busWrite (w : Width) (addr v : Word) (s : State) : Except Fault State :=
  match busTarget s.caps w addr with
  | none => .error .busWriteError
  | some t => if targetRaces s t then .error .hostRace else .ok (writeTarget t v s)

end Sys2Proof.Machine
end

