-- ==== Sys2Proof/Machine/HostProgram.lean ====
section
/-! DEFINITION. The Host agent: one line of a host program per move (30_encoding.md R91), the pseudo-instructions
(R92), and the encode and decode sequences (70_reset_and_hazards.md R223, R224). Host control flow "runs
on the Host, not on the block" (R91). -/

namespace Sys2Proof.Machine

/-- Bits `hi` to `lo` of a value, as a number (R8). -/
def fieldOf (v : Word) (hi lo : Nat) : Nat := v.toNat / 2 ^ lo % 2 ^ (hi + 1 - lo)

/-- The value of a host variable; one no line has set reads 0 (DESIGN CHOICE, assumption log 13). -/
def hostVar (vars : List Word) (x : Nat) : Word := vars.getD x 0

/-- Set host variable `x`. -/
def setHostVar : List Word → Nat → Word → List Word
  | [], 0, v => [v]
  | [], x + 1, v => 0 :: setHostVar [] x v
  | _ :: vs, 0, v => v :: vs
  | u :: vs, x + 1, v => u :: setHostVar vs x v

/-- The number a line writes (R91). -/
def hostValue (vars : List Word) : HostValue → Word
  | .const v => v
  | .var x => hostVar vars x

/-- Whether a condition holds (R91). -/
def hostCond (vars : List Word) : HostCond → Bool
  | .always => true
  | .fieldEq x hi lo v => fieldOf (hostVar vars x) hi lo == v
  | .fieldNe x hi lo v => fieldOf (hostVar vars x) hi lo != v

/-- The Host goes to line `pc`. -/
def hostGoto (pc : Nat) (s : State) : State := { s with host := { s.host with pc := pc } }

/-- The Host goes to the next line. -/
def hostNext (s : State) : State := hostGoto (s.host.pc + 1) s

/-- The Host binds the data of a read to a variable. -/
def hostBind (x : Nat) (v : Word) (s : State) : State :=
  { s with host := { s.host with vars := setHostVar s.host.vars x v } }

/-- One line of the host program (R91). A `poll` that does not see its value stays on its line. -/
def hostLine (l : HostLine) (s : State) : Host.Outcome State Fault Refusal :=
  match l with
  | .write w addr v =>
    match busWrite w addr (hostValue s.host.vars v) s with
    | .ok t => .next (hostNext t)
    | .error f => .fault f
  | .read w addr x =>
    match busRead w addr s with
    | .ok r => .next (hostNext (hostBind x r.1 r.2))
    | .error f => .fault f
  | .poll addr hi lo v =>
    match busRead .w32 addr s with
    | .ok r => .next (if fieldOf r.1 hi lo = v then hostNext r.2 else r.2)
    | .error f => .fault f
  | .ifGoto c target =>
    .next (if hostCond s.host.vars c then hostGoto target s else hostNext s)

/-- A move of the Host: its next line, or nothing once the program has ended (R221). -/
def hostMove (s : State) : Host.Outcome State Fault Refusal :=
  match s.host.prog[s.host.pc]? with
  | none => .next s
  | some l => hostLine l s

/-- The Host has executed its last line (R221). -/
def State.hostEnded (s : State) : Bool := s.host.prog[s.host.pc]?.isNone

/-! ### Pseudo-instructions (R92): "Each expansion is exact" -/

/-- `wr <REG>, <value>` (R91). -/
def hostWr (r : Reg) (v : Word) : HostLine := .write .w32 (regAddr r) (.const v)

/-- `rd <REG> -> <x>` (R91). -/
def hostRd (r : Reg) (x : Nat) : HostLine := .read .w32 (regAddr r) x

/-- `cmd <OP>`. -/
def hostCmd (i : Instr) : List HostLine := [hostWr .cmd (encode i)]

/-- `wait`, that is `poll STATUS.BUSY == 0`. -/
def hostWait : List HostLine := [.poll (regAddr .status) 0 0 0]

/-- `run <OP>`, reading STATUS into variable `st`. -/
def hostRun (i : Instr) (st : Nat) : List HostLine := hostCmd i ++ hostWait ++ [hostRd .status st]

/-- `setrange <lo64>, <hi64>`. -/
def hostSetRange (lo hi : Word64) : List HostLine :=
  [hostWr .cfgPminLo (loHalf lo), hostWr .cfgPminHi (hiHalf lo),
   hostWr .cfgPmaxLo (loHalf hi), hostWr .cfgPmaxHi (hiHalf hi)]

/-- The resolution word `(h << 16) | w` (R89, R92). -/
def resWord (w h : Nat) : Word := BitVec.ofNat 32 ((h <<< 16) ||| w)

/-- `setres <w>, <h>`. -/
def hostSetRes (w h : Nat) : List HostLine := [hostWr .cfgRes (resWord w h)]

/-- `setsrc <w>, <h>`. -/
def hostSetSrc (w h : Nat) : List HostLine := [hostWr .srcRes (resWord w h)]

/-- `wrphase <i>, <w64>`. -/
def hostWrPhase (i : Nat) (w : Word64) : List HostLine :=
  [.write .w32 (BitVec.ofNat 32 (phaseAddr i)) (.const (loHalf w)),
   .write .w32 (BitVec.ofNat 32 (phaseAddr i + 4)) (.const (hiHalf w))]

/-- `rdphase <i> -> <name>`, the name being the pair of variables `{xhi, xlo}`. -/
def hostRdPhase (i xlo xhi : Nat) : List HostLine :=
  [.read .w32 (BitVec.ofNat 32 (phaseAddr i)) xlo, .read .w32 (BitVec.ofNat 32 (phaseAddr i + 4)) xhi]

/-- `wrcode <i>, <c>`. -/
def hostWrCode (i : Nat) (c : Word) : List HostLine :=
  [.write .w32 (BitVec.ofNat 32 (codeAddr i)) (.const c)]

/-- `rdcode <i> -> <x>`. -/
def hostRdCode (i x : Nat) : List HostLine := [.read .w32 (BitVec.ofNat 32 (codeAddr i)) x]

/-- `wrpack <k>, <b>`. -/
def hostWrPack (k : Nat) (b : Byte) : List HostLine :=
  [.write .w8 (BitVec.ofNat 32 (packAddr k)) (.const (b.setWidth 32))]

/-- `rdpack <k> -> <x>`. -/
def hostRdPack (k x : Nat) : List HostLine := [.read .w8 (BitVec.ofNat 32 (packAddr k)) x]

/-- `ack`: clears DONE. -/
def hostAck : List HostLine := [hostWr .status 0x00000002#32]

/-- `if st.ERR_CODE != 0 goto <target>`: `st.ERR_CODE` is bits 11:8 (R223). -/
def hostStopOnError (st target : Nat) : HostLine := .ifGoto (.fieldNe st 11 8 0) target

/-- Two commands run one after the other, stopping with the first error (R223, R224): `st` is the variable
STATUS is read into, and `stop` the line an error goes to. Eight lines. -/
def hostRunBoth (i j : Instr) (st stop : Nat) : List HostLine :=
  hostRun i st ++ [hostStopOnError st stop] ++ hostRun j st ++ [hostStopOnError st stop]

/-- The shape of R223 and R224, to stand from line `base` of a host program: writes, two commands, reads. An
error goes past the reads, to the line after the sequence, with its STATUS word in `st`. -/
def hostSequence (base : Nat) (setup : List HostLine) (i j : Instr) (st : Nat) (reads : List HostLine) :
    List HostLine :=
  setup ++ hostRunBoth i j st (base + setup.length + 8 + reads.length) ++ reads

/-- Every entry of a list written by `line`, from index 0. -/
def hostWriteAll {α : Type} (line : Nat → α → List HostLine) : Nat → List α → List HostLine
  | _, [] => []
  | i, a :: as => line i a ++ hostWriteAll line (i + 1) as

/-- PACK_MEM bytes [0..n−1] read into the `n` variables from `x`. -/
def hostReadPacked (n x : Nat) : List HostLine :=
  (List.range n).flatMap fun k => hostRdPack k (x + k)

/-- PHASE_MEM[0..n−1] read into the `n` pairs of variables from `x`, low half first. -/
def hostReadPhases (n x : Nat) : List HostLine :=
  (List.range n).flatMap fun i => hostRdPhase i (x + 2 * i) (x + 2 * i + 1)

/-- `encode(phase_field, profile)` (R223): `phases` is PHASE_MEM[0..S−1], `l` the packed length `L`, and the
packed bytes come in the variables from `x`. -/
def hostEncode (base : Nat) (phases : List Word64) (w h l st x : Nat) : List HostLine :=
  hostSequence base (hostWriteAll hostWrPhase 0 phases ++ hostSetSrc w h)
    .quantize .pack st (hostReadPacked l x)

/-- `decode(packed_buffer, profile)` (R224): `bytes` is PACK_MEM[0..L−1], and the `S = w × h` phases come in
the pairs of variables from `x`. -/
def hostDecode (base : Nat) (bytes : List Byte) (w h st x : Nat) : List HostLine :=
  hostSequence base
    (hostWriteAll hostWrPack 0 bytes ++ [hostWr .srcLen (BitVec.ofNat 32 bytes.length)] ++
      hostSetSrc w h)
    .unpack .dequantize st (hostReadPhases (w * h) x)

end Sys2Proof.Machine
end

