-- ==== Sys2Proof/Machine/Agents.lean ====
section
/-! DEFINITION. The moves of the agents (00_scope.md R4, 10_state.md R20) and of the reset input, and whose
move comes next. -/

namespace Sys2Proof.Machine

/-- A move of the Engine: the completion of the running command (R186), or nothing when it is IDLE. -/
def engineMove (s : State) : Host.Outcome State Fault Refusal :=
  match s.engine with
  | .idle => .next s
  | .running (.command i) _ => exec i s
  | .running .illegal _ => .next (illegalCommand s)

/-- The reset input (70_reset_and_hazards.md R210, R211): the block takes the state of R47. The parameters,
the count of free values, the Host agent and the schedule are not the block's (assumption log 14). -/
def resetInput (s : State) : State :=
  { State.resetWith s.caps with draws := s.draws, host := s.host, turns := s.turns }

/-- The move of one turn of the schedule. -/
def moveOf (t : Turn) (s : State) : Host.Outcome State Fault Refusal :=
  match t with
  | .host => hostMove s
  | .engine => engineMove s
  | .reset => .next (resetInput s)

/-- The next turn of the schedule moves; with no turn left, the Engine if a command runs, so that every
started command completes (R220), else the Host. Assumption log 4. -/
def nextMove (s : State) : Host.Outcome State Fault Refusal :=
  match s.turns with
  | t :: ts => moveOf t { s with turns := ts }
  | [] => if s.busy then engineMove s else hostMove s

/-- The schedule with the Engine to move next. An empty schedule already lets a running Engine move. -/
def engineFirst : List Turn → List Turn
  | [] => []
  | t :: ts => .engine :: t :: ts

/-- A command started by its word `w` of `nbits` bits, with the Engine to move next. The block does not
fetch: the word comes in a host write to CMD (R187), which this stands for (assumption log 5). -/
def placeCommand (nbits w : Nat) (s : State) : State :=
  { startCommand (BitVec.ofNat 32 (w % 2 ^ nbits)) s with turns := engineFirst s.turns }

end Sys2Proof.Machine
end

