-- ==== Sys2Proof/Safety.lean ====
section
/-! DEFINITION. What claims about runs are stated in: the end of a run (70_reset_and_hazards.md R221), the invariants
of the machine (40_profile.md R108 and the rules each clause names), and what a command leaves alone. -/

namespace Sys2Proof.Machine

/-- "A host program's run ends when the host program has executed its last access and the Engine is IDLE"
(R221). A run with a fault does not end well; a fault ends it as `Host.Outcome.fault`. -/
def State.runOver (s : State) : Bool := s.hostEnded && !s.busy

/-- The invariants of the active profile R108 lists (`W, H ≤ 65535` holds by the field widths). -/
structure ProfileInv (c : Config.Caps) (p : Profile) : Prop where
  bits_pos : 1 ≤ p.bits
  bits_le : p.bits ≤ 32
  width_pos : 1 ≤ p.width
  height_pos : 1 ≤ p.height
  lo_finite : val p.pmin = .num p.lo
  hi_finite : val p.pmax = .num p.hi
  lo_lt_hi : p.lo < p.hi
  layout_legal : p.layout ≠ .reserved
  policy_legal : p.policy ≠ .reserved
  subbyte_bits : p.layout = .packedSubbyte → p.bits ≤ 8
  fits_phase : p.pixels ≤ c.phaseEntries
  fits_code : p.pixels ≤ c.codeEntries
  fits_pack : p.packedBytes ≤ c.packBytes

/-- While PROFILE_VALID = 1 the active profile meets R108 and PACK_LEN holds `L` (R34); otherwise both are
clear (R30, R31, R34). The parameters are in R7's bounds. -/
structure ActiveInv (s : State) : Prop where
  caps_legal : capsWellFormed s.caps = true
  valid : s.profileValid = true → ProfileInv s.caps s.act
  valid_length : s.profileValid = true → s.packLen.toNat = s.act.packedBytes
  invalid_profile : s.profileValid = false → s.act = Profile.zero
  invalid_length : s.profileValid = false → s.packLen = 0

/-- DONE = 1 implies IDLE (R192); the error context reads 0 while BUSY (R216) and after success (R182);
a running command is the decoding of its command word (R42, R187). -/
structure EngineInv (s : State) : Prop where
  done_idle : s.done = true → s.engine = .idle
  busy_clear : s.busy = true → s.err = .noError
  ok_clear : s.err = .noError → s.errIndex = 0 ∧ s.errExp = 0 ∧ s.errAct = 0
  running_op : ∀ op snap, s.engine = .running op snap → op = opOf snap.cmd

/-- An address backed by storage (20_memory.md R61). -/
def backed (c : Config.Caps) (a : Nat) : Prop :=
  (phaseAddr 0 ≤ a ∧ a < phaseAddr c.phaseEntries) ∨
    (codeAddr 0 ≤ a ∧ a < codeAddr c.codeEntries) ∨
    (packAddr 0 ≤ a ∧ a < packAddr c.packBytes)

/-- The storage is in canonical form, holds only backed addresses (R61), and every PHASE_MEM and CODE_MEM
word is stored whole or not at all, since the mark is the word's (R43). -/
structure MemInv (s : State) : Prop where
  canonical : Memory.wf s.mem = true
  only_backed : ∀ a, (memByte? s.mem a).isSome = true → backed s.caps a
  phase_whole : ∀ i j k, i < s.caps.phaseEntries → j < 8 → k < 8 →
    (memByte? s.mem (phaseAddr i + j)).isSome = (memByte? s.mem (phaseAddr i + k)).isSome
  code_whole : ∀ i j k, i < s.caps.codeEntries → j < 4 → k < 4 →
    (memByte? s.mem (codeAddr i + j)).isSome = (memByte? s.mem (codeAddr i + k)).isSome

/-- What no command but VALIDATE writes (R33, R71, R187): everything but the completion fields, the
destination range and the count of free values. -/
structure SameSetup (s t : State) : Prop where
  overrun : t.overrun = s.overrun
  profileValid : t.profileValid = s.profileValid
  doneIe : t.doneIe = s.doneIe
  cfg : t.cfg = s.cfg
  srcRes : t.srcRes = s.srcRes
  srcLen : t.srcLen = s.srcLen
  act : t.act = s.act
  packLen : t.packLen = s.packLen
  caps : t.caps = s.caps
  host : t.host = s.host
  turns : t.turns = s.turns

/-- The completion of R186 with a given error context. -/
structure CompletedWith (t : State) (k : ErrKind) (index : Word) (expected actual : Word64) : Prop where
  err : t.err = k
  errIndex : t.errIndex = index
  errExp : t.errExp = expected
  errAct : t.errAct = actual
  idle : t.engine = .idle
  done : t.done = true

/-- Every byte outside `[a, b)` reads as before. -/
def sameOutside (a b : Nat) (s t : State) : Prop :=
  ∀ x, x < a ∨ b ≤ x → memByte? t.mem x = memByte? s.mem x

/-- Bit `m` of byte `k` of the packed buffer carries a code bit: it is neither padding (42_pack.md R155) nor
an unused unit bit (R158). -/
def usedBit (p : Profile) (k m : Nat) : Bool :=
  match p.layout with
  | .packedSubbyte =>
    match p.order with
    | .msbFirst => decide (8 * k + (7 - m) < p.bits * p.pixels)
    | .lsbFirst => decide (8 * k + m < p.bits * p.pixels)
  | .leMultibyte => decide (8 * (k % p.unitBytes) + m < p.bits)
  | .beMultibyte => decide (8 * (p.unitBytes - 1 - k % p.unitBytes) + m < p.bits)
  | .reserved => false

end Sys2Proof.Machine
end

