-- ==== Sys2Proof/Certificates/Slice0/Obligations.lean ====
section
/-! DEFINITION. The statements for the provers, each from the numbered rules of spec/. -/

open Sys2Proof Sys2Proof.Machine

/-! ### The command word -/

/-- R81: the opcode map on every CMD word; a word other than the five is no command. -/
def Obligations.DecodeMap : Prop :=
  ∀ w : Word,
    (w = 0x00000001#32 → decode w = .ok .validate) ∧
    (w = 0x00000002#32 → decode w = .ok .quantize) ∧
    (w = 0x00000003#32 → decode w = .ok .dequantize) ∧
    (w = 0x00000004#32 → decode w = .ok .pack) ∧
    (w = 0x00000005#32 → decode w = .ok .unpack) ∧
    ((w.toNat = 0 ∨ 6 ≤ w.toNat) → ∃ r, decode w = .error r)

/-- R81, R83: decoding the word of a command gives the command, and no other word decodes to it. -/
def Obligations.DecodeEncode : Prop :=
  ∀ (i : Instr) (w : Word), decode w = .ok i ↔ w = encode i

/-- R42, R186: when the Engine moves with a decoded command running, the step is that command's meaning.
Whose move it is, by a turn of the schedule used up first or, with no turn left, a running Engine, is the
model's choice under the fairness of R220: log 4. -/
def Obligations.StepRunsTheCommand : Prop :=
  ∀ (s : Sys2Proof.Machine.State) (i : Instr) (snap : Snap), s.engine = .running (.command i) snap →
    (s.turns = [] → step s = exec i s) ∧
    (∀ ts, s.turns = .engine :: ts → step s = exec i { s with turns := ts })

/-- The word of a command, placed as the next command, is decoded and run by the very next step. -/
def Obligations.PlacedCommandRuns : Prop :=
  ∀ (s : Sys2Proof.Machine.State) (i : Instr),
    decodeTableWord 32 (encode i).toNat = some i ∧
    step (s.withFetchWord 32 (encode i).toNat) = exec i { startCommand (encode i) s with turns := s.turns }

/-- R187: a CMD write while the Engine is IDLE takes the snapshot, clears DONE and the error context, and
makes the Engine RUNNING with the decoded word; nothing else changes. -/
def Obligations.CmdWriteStarts : Prop :=
  ∀ (s : Sys2Proof.Machine.State) (cw : Word), s.engine = .idle →
    (∀ i, decode cw = .ok i → busWrite .w32 0x00000008#32 cw s = .ok
      { s with
        done := false, err := .noError, errIndex := 0, errExp := 0, errAct := 0
        engine := .running (.command i) ⟨cw, s.srcRes, s.srcLen, s.cfg⟩ }) ∧
    (∀ r, decode cw = .error r → busWrite .w32 0x00000008#32 cw s = .ok
      { s with
        done := false, err := .noError, errIndex := 0, errExp := 0, errAct := 0
        engine := .running .illegal ⟨cw, s.srcRes, s.srcLen, s.cfg⟩ })

/-- R189: a CMD write while a command runs sets OVERRUN and changes nothing else. -/
def Obligations.CmdWriteWhileBusyDropped : Prop :=
  ∀ (s : Sys2Proof.Machine.State) (cw : Word) (op : Op) (snap : Snap), s.engine = .running op snap →
    busWrite .w32 0x00000008#32 cw s = .ok { s with overrun := true }

/-- R82: a CMD write of an illegal word while IDLE starts a command that only completes with
ILLEGAL_COMMAND, the word in ERR_ACT. -/
def Obligations.IllegalWordCompletes : Prop :=
  ∀ (s : Sys2Proof.Machine.State) (cw : Word), s.engine = .idle →
    (cmdOpcode cw = 0#4 ∨ 6 ≤ (cmdOpcode cw).toNat ∨ cmdRsvd cw ≠ 0#28) →
    ∃ t, busWrite .w32 0x00000008#32 cw s = .ok t ∧
      engineMove t = .next
        { s with
          err := .illegalCommand, errIndex := 0, errExp := 0, errAct := cw.setWidth 64
          engine := .idle, done := true }

/-! ### VALIDATE -/

/-- R103, R104: on a staging profile that passes every check of R101, VALIDATE latches it, sets PACK_LEN to
`L` and PROFILE_VALID, completes without error, and changes nothing else. -/
def Obligations.ValidateLatches : Prop :=
  ∀ (s : Sys2Proof.Machine.State) (p : Profile) (lo hi : ℚ) (l : Nat), p = s.snap.cfg →
    1 ≤ p.bits → p.bits ≤ 32 → 1 ≤ p.width → 1 ≤ p.height →
    val p.pmin = .num lo → val p.pmax = .num hi → lo < hi →
    p.layout ≠ .reserved → p.policy ≠ .reserved → (p.layout = .packedSubbyte → p.bits ≤ 8) →
    p.width * p.height ≤ s.caps.phaseEntries → p.width * p.height ≤ s.caps.codeEntries →
    (p.layout = .packedSubbyte →
      p.bits * (p.width * p.height) ≤ 8 * l ∧ 8 * l < p.bits * (p.width * p.height) + 8) →
    (p.layout ≠ .packedSubbyte → ∃ b, l = p.width * p.height * b ∧ p.bits ≤ 8 * b ∧ 8 * b < p.bits + 8) →
    l ≤ s.caps.packBytes →
    exec .validate s = .next
      { s with
        act := p, packLen := BitVec.ofNat 32 l, profileValid := true
        err := .noError, errIndex := 0, errExp := 0, errAct := 0, engine := .idle, done := true }

/-- R101, R105: the first failing check decides the reason and its context; the active profile, PACK_LEN and
PROFILE_VALID are cleared, and nothing else changes. -/
def Obligations.ValidateRefuses : Prop :=
  ∀ (s : Sys2Proof.Machine.State) (p : Profile), p = s.snap.cfg →
    let fails := fun (reason : Nat) (expected actual : Word64) =>
      exec .validate s = .next
        { s with
          act := Profile.zero, packLen := 0, profileValid := false
          err := .invalidProfile, errIndex := BitVec.ofNat 32 reason
          errExp := expected, errAct := actual, engine := .idle, done := true }
    let depthOk := 1 ≤ p.bits ∧ p.bits ≤ 32
    let sizeOk := p.width ≠ 0 ∧ p.height ≠ 0
    let rangeOk := ∃ lo hi, val p.pmin = .num lo ∧ val p.pmax = .num hi ∧ lo < hi
    let codesOk := p.layout ≠ .reserved ∧ p.policy ≠ .reserved
    let layoutOk := ¬(p.layout = .packedSubbyte ∧ 8 < p.bits)
    let legal := depthOk ∧ sizeOk ∧ rangeOk ∧ codesOk ∧ layoutOk
    (¬depthOk → fails 1 32 (BitVec.ofNat 64 p.bits)) ∧
    (depthOk → ¬sizeOk → fails 2 0 (p.res.setWidth 64)) ∧
    (depthOk → sizeOk → ¬rangeOk → fails 3 p.pmax p.pmin) ∧
    (depthOk → sizeOk → rangeOk → ¬codesOk → fails 4 0 (p.mode.setWidth 64)) ∧
    (depthOk → sizeOk → rangeOk → codesOk → ¬layoutOk → fails 5 8 (BitVec.ofNat 64 p.bits)) ∧
    (legal → s.caps.phaseEntries < p.pixels →
      fails 6 (BitVec.ofNat 64 s.caps.phaseEntries) (BitVec.ofNat 64 p.pixels)) ∧
    (legal → p.pixels ≤ s.caps.phaseEntries → s.caps.codeEntries < p.pixels →
      fails 6 (BitVec.ofNat 64 s.caps.codeEntries) (BitVec.ofNat 64 p.pixels)) ∧
    (legal → p.pixels ≤ s.caps.phaseEntries → p.pixels ≤ s.caps.codeEntries →
      s.caps.packBytes < p.packedBytes →
      fails 6 (BitVec.ofNat 64 s.caps.packBytes) (BitVec.ofNat 64 p.packedBytes))

/-- R106: VALIDATE run again on unchanged staging registers gives the same active profile. -/
def Obligations.ValidateRepeats : Prop :=
  ∀ (s t : Sys2Proof.Machine.State), s.snap.cfg = s.cfg → exec .validate s = .next t →
    ∃ u, exec .validate (startCommand (encode .validate) t) = .next u ∧
      u.act = t.act ∧ u.packLen = t.packLen ∧ u.profileValid = t.profileValid ∧
      u.err = t.err ∧ u.errIndex = t.errIndex ∧ u.errExp = t.errExp ∧ u.errAct = t.errAct

/-! ### Checks before a command's scan -/

/-- R107: without a valid profile the four other commands complete with INVALID_PROFILE reason 7 and change
nothing else. -/
def Obligations.ProfileGateStops : Prop :=
  ∀ (s : Sys2Proof.Machine.State) (i : Instr), i ≠ .validate → s.profileValid = false →
    exec i s = .next
      { s with
        err := .invalidProfile, errIndex := 7, errExp := 0, errAct := 0
        engine := .idle, done := true }

/-- R182, R183: with a valid profile, a declared shape other than the profile's is SHAPE_MISMATCH for
QUANTIZE, DEQUANTIZE and PACK, and a declared length other than PACK_LEN is BUFFER_LENGTH_MISMATCH for
UNPACK; nothing else changes. -/
def Obligations.DescriptorMismatchStops : Prop :=
  ∀ (s : Sys2Proof.Machine.State), s.profileValid = true →
    (∀ i, i = Instr.quantize ∨ i = Instr.dequantize ∨ i = Instr.pack →
      s.snap.srcRes ≠ s.act.res →
      exec i s = .next
        { s with
          err := .shapeMismatch, errIndex := 0
          errExp := s.act.res.setWidth 64, errAct := s.snap.srcRes.setWidth 64
          engine := .idle, done := true }) ∧
    (s.snap.srcLen ≠ s.packLen →
      exec .unpack s = .next
        { s with
          err := .bufferLengthMismatch, errIndex := 0
          errExp := s.packLen.setWidth 64, errAct := s.snap.srcLen.setWidth 64
          engine := .idle, done := true })

/-! ### What any command does and leaves alone -/

/-- R186, R180: every command completes from every state, with DONE set and the Engine IDLE, and with an
error kind the table of R180 lets it raise. -/
def Obligations.CommandsComplete : Prop :=
  ∀ (i : Instr) (s : Sys2Proof.Machine.State), ∃ t, exec i s = .next t ∧ t.engine = .idle ∧ t.done = true ∧
    t.err ∈ (match i with
      | .validate => [ErrKind.noError, .invalidProfile]
      | .quantize => [ErrKind.noError, .invalidProfile, .outOfDomain, .shapeMismatch]
      | .dequantize => [ErrKind.noError, .invalidProfile, .shapeMismatch, .codeOutOfRange]
      | .pack => [ErrKind.noError, .invalidProfile, .shapeMismatch, .codeOutOfRange]
      | .unpack => [ErrKind.noError, .invalidProfile, .bufferLengthMismatch])

/-- R33, R187: the four commands other than VALIDATE leave every register but STATUS.DONE, STATUS.ERR_CODE
and the error context as it was; VALIDATE leaves the staging and descriptor registers, IRQ_EN and OVERRUN. -/
def Obligations.CommandsLeaveRegisters : Prop :=
  ∀ (i : Instr) (s t : Sys2Proof.Machine.State), exec i s = .next t →
    (i ≠ .validate → SameSetup s t) ∧
    (i = .validate →
      t.overrun = s.overrun ∧ t.doneIe = s.doneIe ∧ t.cfg = s.cfg ∧ t.srcRes = s.srcRes ∧
      t.srcLen = s.srcLen ∧ t.caps = s.caps ∧ t.host = s.host ∧ t.turns = s.turns)

/-- R71: a command writes no byte of memory outside its destination range, whatever its outcome. -/
def Obligations.CommandsWriteOnlyTheirRange : Prop :=
  ∀ (s t : Sys2Proof.Machine.State),
    (exec .validate s = .next t → ∀ a, memByte? t.mem a = memByte? s.mem a) ∧
    (exec .quantize s = .next t → sameOutside (codeAddr 0) (codeAddr s.act.pixels) s t) ∧
    (exec .dequantize s = .next t → sameOutside (phaseAddr 0) (phaseAddr s.act.pixels) s t) ∧
    (exec .pack s = .next t → sameOutside (packAddr 0) (packAddr s.act.packedBytes) s t) ∧
    (exec .unpack s = .next t → sameOutside (codeAddr 0) (codeAddr s.act.pixels) s t)

/-- R185: a command that completes with INVALID_PROFILE, SHAPE_MISMATCH or BUFFER_LENGTH_MISMATCH leaves
every byte of memory, and unless it is VALIDATE the active profile, as it was. -/
def Obligations.EarlyErrorsWriteNothing : Prop :=
  ∀ (i : Instr) (s t : Sys2Proof.Machine.State), exec i s = .next t →
    (t.err = .invalidProfile ∨ t.err = .shapeMismatch ∨ t.err = .bufferLengthMismatch) →
    t.mem = s.mem ∧ (i ≠ .validate → t.act = s.act ∧ t.profileValid = s.profileValid)

/-- R73, R217: a write to a staging register, a descriptor register or IRQ_EN while a command runs, or one
that clears OVERRUN, does not affect the running command. -/
def Obligations.OperandsAreSampledAtStart : Prop :=
  ∀ (s : Sys2Proof.Machine.State) (op : Op) (snap : Snap), s.engine = .running op snap →
    ∀ (r : Reg) (v : Word),
      r ∈ [Reg.irqEn, .cfgDepth, .cfgRes, .cfgMode, .cfgPminLo, .cfgPminHi, .cfgPmaxLo, .cfgPmaxHi,
        .srcRes, .srcLen] ∨ (r = .status ∧ v.getLsbD 1 = false) →
      ∀ (i : Instr) (t : Sys2Proof.Machine.State), exec i s = .next t →
        exec i (writeReg r v s) = .next (writeReg r v t)

/-! ### Numbers -/

/-- R12: `rne(q)` is the nearest integer, and the even one of two that are equally near. -/
def Obligations.RneIsNearestEven : Prop :=
  ∀ q : ℚ, (∀ n : ℤ, |q - (rne q : ℚ)| ≤ |q - (n : ℚ)|) ∧
    (∀ n : ℤ, n ≠ rne q → |q - (rne q : ℚ)| = |q - (n : ℚ)| → rne q % 2 = 0)

/-- R11: what every binary64 word denotes. R13: `fl64(q)` is the binary64 word nearest to `q`, ties to the
word whose fraction is even (bit 0 of the word is bit 0 of the fraction), and `fl64(0)` is +0.0, for every
`q` between two finite words. -/
def Obligations.Fl64IsNearestEven : Prop :=
  (∀ w : Word64,
    let e : ℕ := w.toNat / 2 ^ 52 % 2 ^ 11
    let f : ℕ := w.toNat % 2 ^ 52
    let sign : ℚ := if w.getLsbD 63 then -1 else 1
    (e = 0x7FF → f ≠ 0 → val w = .nan) ∧
    (e = 0x7FF → f = 0 → val w = if w.getLsbD 63 then .negInf else .posInf) ∧
    (e = 0 → val w = .num (sign * (f : ℚ) * 2 ^ (-1074 : ℤ))) ∧
    (e ≠ 0 → e ≠ 0x7FF → val w = .num (sign * (2 ^ 52 + (f : ℚ)) * 2 ^ ((e : ℤ) - 1075)))) ∧
  fl64 0 = 0x0000000000000000#64 ∧
  ∀ (q : ℚ) (a b : Word64) (qa qb : ℚ), val a = .num qa → val b = .num qb → qa ≤ q → q ≤ qb →
    ∃ r, val (fl64 q) = .num r ∧
      (∀ (w : Word64) (v : ℚ), val w = .num v → |q - r| ≤ |q - v|) ∧
      (∀ (w : Word64) (v : ℚ), val w = .num v → v ≠ r → |q - r| = |q - v| →
        (fl64 q).getLsbD 0 = false)

/-! ### The phase-to-code map -/

/-- R122, R124, R125, R126, R127: `qmap` under CLAMP and ERROR, for infinities and NaN, and the scaling. -/
def Obligations.QmapByPolicy : Prop :=
  ∀ (p : Profile) (w : Word64), p.lo < p.hi →
    let scaled := fun u : ℚ =>
      QResult.code (BitVec.ofInt 32 (rne ((u - p.lo) / (p.hi - p.lo) * ((2 ^ p.bits - 1 : ℕ) : ℚ))))
    (val w = .nan → qmap p w = .ood 0x0000000000000000#64) ∧
    (p.policy = .clamp →
      (∀ v, val w = .num v → qmap p w = scaled (min (max v p.lo) p.hi)) ∧
      (val w = .posInf → qmap p w = scaled p.hi) ∧
      (val w = .negInf → qmap p w = scaled p.lo)) ∧
    (p.policy = .wrap →
      (val w = .posInf → qmap p w = .ood p.pmax) ∧
      (val w = .negInf → qmap p w = .ood p.pmin)) ∧
    (p.policy = .error →
      (∀ v, val w = .num v → p.lo ≤ v → v ≤ p.hi → qmap p w = scaled v) ∧
      (∀ v, val w = .num v → p.hi < v → qmap p w = .ood p.pmax) ∧
      (∀ v, val w = .num v → v < p.lo → qmap p w = .ood p.pmin) ∧
      (val w = .posInf → qmap p w = .ood p.pmax) ∧
      (val w = .negInf → qmap p w = .ood p.pmin))

/-- R123: under WRAP the sample is reduced by a whole number of periods onto `[lo, hi)` and scaled; `hi`
wraps to `lo`. -/
def Obligations.WrapReducesByPeriods : Prop :=
  ∀ (p : Profile) (w : Word64) (v : ℚ), p.lo < p.hi → p.policy = .wrap → val w = .num v →
    ∃ (u : ℚ) (k : ℤ), u = v - (k : ℚ) * (p.hi - p.lo) ∧ p.lo ≤ u ∧ u < p.hi ∧
      k = ⌊(v - p.lo) / (p.hi - p.lo)⌋ ∧ (v = p.hi → u = p.lo) ∧
      qmap p w = .code (BitVec.ofInt 32
        (rne ((u - p.lo) / (p.hi - p.lo) * ((2 ^ p.bits - 1 : ℕ) : ℚ))))

/-- R129 (corner cases): a sample equal to `lo` gives 0 under every policy; a sample at or above `hi` gives
`M` under CLAMP, one equal to `hi` gives `M` under ERROR, and one at `lo + kP` gives 0 under WRAP. -/
def Obligations.QmapAtTheBounds : Prop :=
  ∀ (c : Config.Caps) (p : Profile) (w : Word64) (v : ℚ), ProfileInv c p → val w = .num v →
    (v = p.lo → qmap p w = .code 0) ∧
    (p.policy = .clamp → v ≤ p.lo → qmap p w = .code 0) ∧
    (p.policy = .clamp → p.hi ≤ v → qmap p w = .code (BitVec.ofNat 32 (2 ^ p.bits - 1))) ∧
    (p.policy = .error → v = p.hi → qmap p w = .code (BitVec.ofNat 32 (2 ^ p.bits - 1))) ∧
    (p.policy = .wrap → ∀ k : ℤ, v = p.lo + (k : ℚ) * (p.hi - p.lo) → qmap p w = .code 0)

/-- R128: every code the map produces lies in `[0, M]`. -/
def Obligations.QmapCodesInRange : Prop :=
  ∀ (c : Config.Caps) (p : Profile) (w : Word64) (k : Word), ProfileInv c p → qmap p w = .code k →
    k.toNat ≤ 2 ^ p.bits - 1

/-- R132: the exact round-trip bound, half a code step: for a sample in the range under CLAMP and ERROR, and
for the wrapped value under WRAP. -/
def Obligations.RoundTripWithinHalfStep : Prop :=
  ∀ (c : Config.Caps) (p : Profile) (w : Word64) (v : ℚ), ProfileInv c p → val w = .num v →
    let halfStep := (p.hi - p.lo) / (2 * ((2 ^ p.bits - 1 : ℕ) : ℚ))
    let back := fun k : Word => p.lo + (k.toNat : ℚ) * (p.hi - p.lo) / ((2 ^ p.bits - 1 : ℕ) : ℚ)
    (p.policy = .clamp ∨ p.policy = .error → p.lo ≤ v → v ≤ p.hi →
      ∃ k, qmap p w = .code k ∧ |back k - v| ≤ halfStep) ∧
    (p.policy = .wrap → ∃ (k : Word) (n : ℤ), qmap p w = .code k ∧
      p.lo ≤ v - (n : ℚ) * (p.hi - p.lo) ∧ v - (n : ℚ) * (p.hi - p.lo) < p.hi ∧
      |back k - (v - (n : ℚ) * (p.hi - p.lo))| ≤ halfStep)

/-- R134: the map is non-decreasing in the sample under CLAMP and ERROR, and under WRAP on each period. -/
def Obligations.QmapMonotone : Prop :=
  ∀ (c : Config.Caps) (p : Profile) (w w' : Word64) (v v' : ℚ) (k k' : Word), ProfileInv c p →
    val w = .num v → val w' = .num v' → v ≤ v' → qmap p w = .code k → qmap p w' = .code k' →
    (p.policy = .clamp ∨ p.policy = .error ∨
      (p.policy = .wrap ∧ ∃ n : ℤ, p.lo + (n : ℚ) * (p.hi - p.lo) ≤ v ∧
        v' < p.hi + (n : ℚ) * (p.hi - p.lo))) →
    k.toNat ≤ k'.toNat

/-- R130: `dmap` of a code is a finite word in `[lo, hi]`, never -0.0; it is the ACT_PMIN word at 0 and the
ACT_PMAX word at `M`, but +0.0 where that word is -0.0. That a nonzero value that rounds to zero gives +0.0
too is the model's deduction from D43: log 8. -/
def Obligations.DmapStaysInTheRange : Prop :=
  ∀ (c : Config.Caps) (p : Profile) (k : Word), ProfileInv c p → k.toNat ≤ 2 ^ p.bits - 1 →
    (∃ r, val (dmap p k) = .num r ∧ p.lo ≤ r ∧ r ≤ p.hi) ∧
    dmap p k ≠ 0x8000000000000000#64 ∧
    (k.toNat = 0 → dmap p k = if p.pmin = 0x8000000000000000#64 then 0 else p.pmin) ∧
    (k.toNat = 2 ^ p.bits - 1 → dmap p k = if p.pmax = 0x8000000000000000#64 then 0 else p.pmax)

/-! ### QUANTIZE and DEQUANTIZE -/

/-- R129: with a valid profile, the profile's shape declared and every sample written and in its domain,
QUANTIZE writes the code of every sample, completes without error, and changes nothing else. -/
def Obligations.QuantizeWritesCodes : Prop :=
  ∀ (s : Sys2Proof.Machine.State) (w : Nat → Word64) (k : Nat → Word), s.profileValid = true →
    s.snap.srcRes = s.act.res →
    (∀ i, i < s.act.pixels → phaseWord? s.mem i = some (w i) ∧ qmap s.act (w i) = .code (k i)) →
    ∃ t, exec .quantize s = .next t ∧
      (∀ i, i < s.act.pixels → codeWord? t.mem i = some (k i)) ∧
      CompletedWith t .noError 0 0 0 ∧ SameSetup s t ∧ t.draws = s.draws ∧
      sameOutside (codeAddr 0) (codeAddr s.act.pixels) s t

/-- R129, R182, R184: a sample the policy rejects is OUT_OF_DOMAIN at the lowest such index, with the bound
word and the sample word, whatever follows it. -/
def Obligations.QuantizeReportsLowestBadSample : Prop :=
  ∀ (s : Sys2Proof.Machine.State) (w : Nat → Word64) (n : Nat) (b : Word64), s.profileValid = true →
    s.snap.srcRes = s.act.res → n < s.act.pixels →
    (∀ i, i ≤ n → phaseWord? s.mem i = some (w i)) →
    (∀ i, i < n → ∃ k, qmap s.act (w i) = .code k) → qmap s.act (w n) = .ood b →
    ∃ t, exec .quantize s = .next t ∧ CompletedWith t .outOfDomain (BitVec.ofNat 32 n) b (w n) ∧
      SameSetup s t ∧ sameOutside (codeAddr 0) (codeAddr s.act.pixels) s t

/-- R131: with a valid profile, the profile's shape declared and every code written and at most `M`,
DEQUANTIZE writes `dmap` of every code, completes without error, and changes nothing else. -/
def Obligations.DequantizeWritesPhases : Prop :=
  ∀ (s : Sys2Proof.Machine.State) (k : Nat → Word), s.profileValid = true → s.snap.srcRes = s.act.res →
    (∀ i, i < s.act.pixels → codeWord? s.mem i = some (k i) ∧ (k i).toNat ≤ 2 ^ s.act.bits - 1) →
    ∃ t, exec .dequantize s = .next t ∧
      (∀ i, i < s.act.pixels → phaseWord? t.mem i = some (fl64 (s.act.lo +
        ((k i).toNat : ℚ) * (s.act.hi - s.act.lo) / ((2 ^ s.act.bits - 1 : ℕ) : ℚ)))) ∧
      CompletedWith t .noError 0 0 0 ∧ SameSetup s t ∧ t.draws = s.draws ∧
      sameOutside (phaseAddr 0) (phaseAddr s.act.pixels) s t

/-- R131, R160, R182, R184: a word above `M` is CODE_OUT_OF_RANGE at the lowest such source index for
DEQUANTIZE and PACK, with `M` and the word, whatever follows it. -/
def Obligations.LowestCodeAboveMaxReported : Prop :=
  ∀ (s : Sys2Proof.Machine.State) (k : Nat → Word) (n : Nat) (i : Instr),
    i = .dequantize ∨ i = .pack → s.profileValid = true → s.snap.srcRes = s.act.res →
    n < s.act.pixels → (∀ j, j ≤ n → codeWord? s.mem j = some (k j)) →
    (∀ j, j < n → (k j).toNat ≤ 2 ^ s.act.bits - 1) → 2 ^ s.act.bits - 1 < (k n).toNat →
    ∃ t, exec i s = .next t ∧
      CompletedWith t .codeOutOfRange (BitVec.ofNat 32 n) (BitVec.ofNat 64 (2 ^ s.act.bits - 1))
        ((k n).setWidth 64) ∧
      SameSetup s t ∧
      (i = .dequantize → sameOutside (phaseAddr 0) (phaseAddr s.act.pixels) s t) ∧
      (i = .pack → sameOutside (packAddr 0) (packAddr s.act.packedBytes) s t)

/-- R135: QUANTIZE and DEQUANTIZE depend only on the active profile, the declared shape and the words of the
source range. -/
def Obligations.QuantizerIsDeterministic : Prop :=
  ∀ (s s' t t' : Sys2Proof.Machine.State), s'.profileValid = s.profileValid → s'.act = s.act →
    s'.snap.srcRes = s.snap.srcRes →
    (∀ w : Nat → Word64,
      (∀ i, i < s.act.pixels →
        phaseWord? s.mem i = some (w i) ∧ phaseWord? s'.mem i = some (w i)) →
      exec .quantize s = .next t → exec .quantize s' = .next t' →
      (t'.err = t.err ∧ t'.errIndex = t.errIndex ∧ t'.errExp = t.errExp ∧ t'.errAct = t.errAct) ∧
      (t.err = .noError → ∀ i, i < s.act.pixels → codeWord? t'.mem i = codeWord? t.mem i)) ∧
    (∀ k : Nat → Word,
      (∀ i, i < s.act.pixels →
        codeWord? s.mem i = some (k i) ∧ codeWord? s'.mem i = some (k i)) →
      exec .dequantize s = .next t → exec .dequantize s' = .next t' →
      (t'.err = t.err ∧ t'.errIndex = t.errIndex ∧ t'.errExp = t.errExp ∧ t'.errAct = t.errAct) ∧
      (t.err = .noError → ∀ i, i < s.act.pixels → phaseWord? t'.mem i = phaseWord? t.mem i))

/-! ### The packed layout -/

/-- R151's expression for `src`, on the bits of ACT_RES and ACT_MODE. R152: `src` maps the stream positions
onto themselves, is its own inverse, the two flips commute, and both together reverse the stream. -/
def Obligations.SourceIndexIsInvolution : Prop :=
  ∀ (p : Profile) (s : Nat), s < p.pixels →
    (let w := p.res.toNat % 2 ^ 16
     let h := p.res.toNat / 2 ^ 16
     p.pixels = w * h ∧
     sourceIndex p s =
      (if p.mode.getLsbD 3 then h - 1 - s / w else s / w) * w +
        (if p.mode.getLsbD 4 then w - 1 - s % w else s % w)) ∧
    sourceIndex p s < p.pixels ∧ sourceIndex p (sourceIndex p s) = s ∧
    (p.rowFlip = true → p.colFlip = true → sourceIndex p s = p.pixels - 1 - s) ∧
    (∀ r c : Profile, r.res = p.res → c.res = p.res → r.rowFlip = p.rowFlip → r.colFlip = false →
      c.rowFlip = false → c.colFlip = p.colFlip →
      sourceIndex r (sourceIndex c s) = sourceIndex p s ∧
      sourceIndex c (sourceIndex r s) = sourceIndex p s)

/-- R153, R154, R155: where each bit of a PACKED_SUBBYTE buffer comes from under either bit order, and that
the padding is 0. -/
def Obligations.PackedStreamBits : Prop :=
  ∀ (p : Profile) (q : Nat → Word) (t : Nat), p.layout = .packedSubbyte → t < 8 * p.packedBytes →
    (p.order = .msbFirst → (packedByte p q (t / 8)).getLsbD (7 - t % 8) =
      if t < p.bits * p.pixels then (q (t / p.bits)).getLsbD (p.bits - 1 - t % p.bits) else false) ∧
    (p.order = .lsbFirst → (packedByte p q (t / 8)).getLsbD (t % 8) =
      if t < p.bits * p.pixels then (q (t / p.bits)).getLsbD (t % p.bits) else false) ∧
    p.bits * p.pixels ≤ 8 * p.packedBytes ∧ 8 * p.packedBytes < p.bits * p.pixels + 8

/-- R156, R157, R158: the bytes of each code's unit under the multibyte layouts; BIT_ORDER has no effect and
the unused high bits are 0. -/
def Obligations.PackedUnitBytes : Prop :=
  ∀ (p p' : Profile) (q : Nat → Word) (s j : Nat), (q s).toNat ≤ 2 ^ p.bits - 1 →
    j < p.unitBytes → p'.depth = p.depth → p'.res = p.res → p'.layout = p.layout →
    (p.layout = .leMultibyte →
      (packedByte p q (s * p.unitBytes + j)).toNat = (q s).toNat / 2 ^ (8 * j) % 256 ∧
      (∀ m, m < 8 → p.bits ≤ 8 * j + m →
        (packedByte p q (s * p.unitBytes + j)).getLsbD m = false)) ∧
    (p.layout = .beMultibyte →
      (packedByte p q (s * p.unitBytes + j)).toNat =
        (q s).toNat / 2 ^ (8 * (p.unitBytes - 1 - j)) % 256 ∧
      (∀ m, m < 8 → p.bits ≤ 8 * (p.unitBytes - 1 - j) + m →
        (packedByte p q (s * p.unitBytes + j)).getLsbD m = false)) ∧
    (p.layout = .leMultibyte ∨ p.layout = .beMultibyte →
      packedByte p' q (s * p.unitBytes + j) = packedByte p q (s * p.unitBytes + j) ∧
      ∀ b : Nat → Byte, extractCode p' b s = extractCode p b s)

/-- R159: read as one number, the PACKED_SUBBYTE buffer is the sum of the codes at their places. -/
def Obligations.PackedBufferAsOneNumber : Prop :=
  ∀ (p : Profile) (q : Nat → Word), p.layout = .packedSubbyte → 1 ≤ p.bits → p.bits ≤ 8 →
    (∀ s, s < p.pixels → (q s).toNat ≤ 2 ^ p.bits - 1) →
    (p.order = .msbFirst →
      ∑ k ∈ Finset.range p.packedBytes, (packedByte p q k).toNat * 256 ^ (p.packedBytes - 1 - k) =
        (∑ s ∈ Finset.range p.pixels, (q s).toNat * 2 ^ (p.bits * (p.pixels - 1 - s))) *
          2 ^ (8 * p.packedBytes - p.bits * p.pixels)) ∧
    (p.order = .lsbFirst →
      ∑ k ∈ Finset.range p.packedBytes, (packedByte p q k).toNat * 256 ^ k =
        ∑ s ∈ Finset.range p.pixels, (q s).toNat * 2 ^ (p.bits * s))

/-- R161, R163: packing extracted codes gives the bytes back with the padding and unused unit bits cleared,
and extraction never reads those bits. -/
def Obligations.PackOfExtractedClearsPadding : Prop :=
  ∀ (c : Config.Caps) (p : Profile) (b b' : Nat → Byte), ProfileInv c p →
    (∀ k m, k < p.packedBytes → m < 8 →
      (packedByte p (extractCode p b) k).getLsbD m = (usedBit p k m && (b k).getLsbD m)) ∧
    ((∀ k m, k < p.packedBytes → m < 8 → usedBit p k m = true →
        (b k).getLsbD m = (b' k).getLsbD m) →
      ∀ s, s < p.pixels → extractCode p b s = extractCode p b' s)

/-! ### PACK and UNPACK -/

/-- R160: with a valid profile, the profile's shape declared and every code written and at most `M`, PACK
writes the `L` bytes of the layout for the codes in stream order, completes without error, and changes
nothing else. -/
def Obligations.PackWritesBytes : Prop :=
  ∀ (s : Sys2Proof.Machine.State) (k : Nat → Word), s.profileValid = true → s.snap.srcRes = s.act.res →
    (∀ i, i < s.act.pixels → codeWord? s.mem i = some (k i) ∧ (k i).toNat ≤ 2 ^ s.act.bits - 1) →
    ∃ t, exec .pack s = .next t ∧
      (∀ (q : Nat → Word), (∀ i, i < s.act.pixels → q i = k (sourceIndex s.act i)) →
        ∀ n, n < s.act.packedBytes → packByte? t.mem n = some (packedByte s.act q n)) ∧
      CompletedWith t .noError 0 0 0 ∧ SameSetup s t ∧ t.draws = s.draws ∧
      sameOutside (packAddr 0) (packAddr s.act.packedBytes) s t

/-- R162: with a valid profile, PACK_LEN declared and every byte written, UNPACK writes the code extracted at
each stream position to its source index, at most `M`, completes without error, and changes nothing
else. -/
def Obligations.UnpackWritesCodes : Prop :=
  ∀ (s : Sys2Proof.Machine.State) (b : Nat → Byte), s.profileValid = true → ProfileInv s.caps s.act →
    s.snap.srcLen = s.packLen →
    (∀ n, n < s.act.packedBytes → packByte? s.mem n = some (b n)) →
    ∃ t, exec .unpack s = .next t ∧
      (∀ i, i < s.act.pixels →
        codeWord? t.mem (sourceIndex s.act i) = some (extractCode s.act b i) ∧
        (extractCode s.act b i).toNat ≤ 2 ^ s.act.bits - 1) ∧
      CompletedWith t .noError 0 0 0 ∧ SameSetup s t ∧ t.draws = s.draws ∧
      sameOutside (codeAddr 0) (codeAddr s.act.pixels) s t

/-- R163: PACK then UNPACK with `SRC_LEN = L` leaves CODE_MEM[0..S−1] as it was before PACK, when its codes
are at most `M`. -/
def Obligations.UnpackUndoesPack : Prop :=
  ∀ (s : Sys2Proof.Machine.State) (k : Nat → Word), ActiveInv s → s.profileValid = true →
    s.snap.srcRes = s.act.res → s.srcLen = s.packLen →
    (∀ i, i < s.act.pixels → codeWord? s.mem i = some (k i) ∧ (k i).toNat ≤ 2 ^ s.act.bits - 1) →
    ∃ t u, exec .pack s = .next t ∧ exec .unpack (startCommand (encode .unpack) t) = .next u ∧
      u.err = .noError ∧ ∀ i, i < s.act.pixels → codeWord? u.mem i = some (k i)

/-- R223: PACK after a successful QUANTIZE completes without error. -/
def Obligations.PackAfterQuantizeSucceeds : Prop :=
  ∀ (s t : Sys2Proof.Machine.State), ActiveInv s → s.srcRes = s.snap.srcRes →
    exec .quantize s = .next t → t.err = .noError →
    ∃ u, exec .pack (startCommand (encode .pack) t) = .next u ∧ u.err = .noError

/-- R224: DEQUANTIZE after a successful UNPACK completes without error, when the profile's shape is
declared. -/
def Obligations.DequantizeAfterUnpackSucceeds : Prop :=
  ∀ (s t : Sys2Proof.Machine.State), ActiveInv s → s.srcRes = s.act.res →
    exec .unpack s = .next t → t.err = .noError →
    ∃ u, exec .dequantize (startCommand (encode .dequantize) t) = .next u ∧ u.err = .noError

/-! ### Registers, STATUS, interrupt, reset -/

/-- R24, R37: the read-only registers ignore writes, and the identification and capability registers read
their constants and parameters. -/
def Obligations.ReadOnlyRegistersIgnoreWrites : Prop :=
  ∀ (s : Sys2Proof.Machine.State) (v : Word),
    (∀ r ∈ [Reg.id, .version, .actDepth, .actRes, .actMode, .actPminLo, .actPminHi, .actPmaxLo, .actPmaxHi,
        .packLen, .errIndex, .errExpLo, .errExpHi, .errActLo, .errActHi,
        .capPhase, .capCode, .capPack, .capDepth], writeReg r v s = s) ∧
    readReg .id s = 0x504C4D43#32 ∧ readReg .version s = 0x00000701#32 ∧
    readReg .capPhase s = BitVec.ofNat 32 s.caps.phaseEntries ∧
    readReg .capCode s = BitVec.ofNat 32 s.caps.codeEntries ∧
    readReg .capPack s = BitVec.ofNat 32 s.caps.packBytes ∧ readReg .capDepth s = 32#32

/-- R28, R29, R35, R38: a read-write register reads back what was written with its reserved bits 0, and the
write changes what no other register reads. -/
def Obligations.RegisterReadsBackWhatWasWritten : Prop :=
  ∀ (s : Sys2Proof.Machine.State) (v : Word),
    readReg .irqEn (writeReg .irqEn v s) = v &&& 0x00000001#32 ∧
    readReg .cfgDepth (writeReg .cfgDepth v s) = v &&& 0x0000003F#32 ∧
    readReg .cfgMode (writeReg .cfgMode v s) = v &&& 0x0000007F#32 ∧
    (∀ r ∈ [Reg.cfgRes, .cfgPminLo, .cfgPminHi, .cfgPmaxLo, .cfgPmaxHi, .srcRes, .srcLen],
      readReg r (writeReg r v s) = v) ∧
    (∀ r r', r ≠ .cmd → r ≠ .status → r' ≠ r → readReg r' (writeReg r v s) = readReg r' s)

/-- R28 to R31, R34, R36, R85 to R90: where the fields stand in the profile registers, what each code of
BIT_ORDER, BYTE_LAYOUT and POLICY means, and which bits every other register with fields shows. -/
def Obligations.RegisterFieldEncodings : Prop :=
  (∀ p : Profile,
    (p.order = if p.mode.getLsbD 0 then .lsbFirst else .msbFirst) ∧
    (p.mode.extractLsb' 1 2 = 0#2 → p.layout = .packedSubbyte) ∧
    (p.mode.extractLsb' 1 2 = 1#2 → p.layout = .leMultibyte) ∧
    (p.mode.extractLsb' 1 2 = 2#2 → p.layout = .beMultibyte) ∧
    (p.mode.extractLsb' 1 2 = 3#2 → p.layout = .reserved) ∧
    p.rowFlip = p.mode.getLsbD 3 ∧ p.colFlip = p.mode.getLsbD 4 ∧
    (p.mode.extractLsb' 5 2 = 0#2 → p.policy = .clamp) ∧
    (p.mode.extractLsb' 5 2 = 1#2 → p.policy = .wrap) ∧
    (p.mode.extractLsb' 5 2 = 2#2 → p.policy = .error) ∧
    (p.mode.extractLsb' 5 2 = 3#2 → p.policy = .reserved) ∧
    p.width = p.res.toNat % 2 ^ 16 ∧ p.height = p.res.toNat / 2 ^ 16 ∧ p.bits = p.depth.toNat ∧
    (∀ q, val p.pmin = .num q → p.lo = q) ∧ (∀ q, val p.pmax = .num q → p.hi = q)) ∧
  ∀ s : Sys2Proof.Machine.State,
    readReg .cfgDepth s = s.cfg.depth.setWidth 32 ∧ readReg .actDepth s = s.act.depth.setWidth 32 ∧
    readReg .cfgRes s = s.cfg.res ∧ readReg .actRes s = s.act.res ∧
    readReg .cfgMode s = s.cfg.mode.setWidth 32 ∧ readReg .actMode s = s.act.mode.setWidth 32 ∧
    readReg .cfgPminHi s ++ readReg .cfgPminLo s = s.cfg.pmin ∧
    readReg .cfgPmaxHi s ++ readReg .cfgPmaxLo s = s.cfg.pmax ∧
    readReg .actPminHi s ++ readReg .actPminLo s = s.act.pmin ∧
    readReg .actPmaxHi s ++ readReg .actPmaxLo s = s.act.pmax ∧
    readReg .srcRes s = s.srcRes ∧ readReg .srcLen s = s.srcLen ∧ readReg .packLen s = s.packLen ∧
    readReg .errIndex s = s.errIndex ∧
    readReg .errExpHi s ++ readReg .errExpLo s = s.errExp ∧
    readReg .errActHi s ++ readReg .errActLo s = s.errAct

/-- R26: the STATUS word field by field, with the numbers R180 gives the error kinds, and a host write to it, which clears DONE and OVERRUN where the
written bit is 1 and changes nothing else. -/
def Obligations.StatusWordAndItsClearing : Prop :=
  ∀ (s : Sys2Proof.Machine.State) (v : Word),
    (readReg .status s).getLsbD 0 = s.busy ∧
    (readReg .status s).getLsbD 1 = s.done ∧
    ((readReg .status s).getLsbD 2 = true ↔ s.err ≠ .noError) ∧
    (readReg .status s).getLsbD 3 = s.overrun ∧
    (readReg .status s).getLsbD 4 = s.profileValid ∧
    (readReg .status s).extractLsb' 5 3 = 0#3 ∧
    (readReg .status s).extractLsb' 8 4 = (match s.err with
      | .noError => 0#4
      | .invalidProfile => 1#4
      | .outOfDomain => 2#4
      | .shapeMismatch => 3#4
      | .bufferLengthMismatch => 4#4
      | .codeOutOfRange => 5#4
      | .illegalCommand => 6#4) ∧
    (readReg .status s).extractLsb' 12 20 = 0#20 ∧
    writeReg .status v s = { s with
      done := if v.getLsbD 1 then false else s.done
      overrun := if v.getLsbD 3 then false else s.overrun }

/-- R44: IRQ is DONE and DONE_IE; it falls when either is cleared. -/
def Obligations.IrqIsDoneAndEnabled : Prop :=
  ∀ s : Sys2Proof.Machine.State,
    (s.irq = true ↔ (readReg .status s).getLsbD 1 = true ∧ (readReg .irqEn s).getLsbD 0 = true) ∧
    (writeReg .status 0x00000002#32 s).irq = false ∧ (writeReg .irqEn 0#32 s).irq = false

/-- R47, R210: what reset leaves in every register, in the Engine, on IRQ and in the buffers. -/
def Obligations.ResetLeavesTableValues : Prop :=
  ∀ s : Sys2Proof.Machine.State,
    (∀ r, r ∉ [Reg.id, .version, .capPhase, .capCode, .capPack, .capDepth] →
      readReg r (resetInput s) = 0#32) ∧
    readReg .id (resetInput s) = 0x504C4D43#32 ∧ readReg .version (resetInput s) = 0x00000701#32 ∧
    readReg .capPhase (resetInput s) = BitVec.ofNat 32 s.caps.phaseEntries ∧
    readReg .capCode (resetInput s) = BitVec.ofNat 32 s.caps.codeEntries ∧
    readReg .capPack (resetInput s) = BitVec.ofNat 32 s.caps.packBytes ∧
    readReg .capDepth (resetInput s) = 32#32 ∧
    (resetInput s).engine = .idle ∧ (resetInput s).irq = false ∧
    (∀ a, memByte? (resetInput s).mem a = none) ∧
    (∀ ts, s.turns = .reset :: ts → step s = .next (resetInput { s with turns := ts }))

/-! ### The host bus -/

/-- R23, R62: a 32-bit access at each offset of the register table reads or writes that register. R61 to R66:
exactly which accesses get a bus error, whose read data is 0. -/
def Obligations.BusErrorExactlyOutsideTheMap : Prop :=
  ∀ (s : Sys2Proof.Machine.State) (w : Width) (a v : Word), capsWellFormed s.caps = true →
    let registers : List (Nat × Reg) :=
      [(0x000, .id), (0x004, .version), (0x008, .cmd), (0x00C, .status), (0x010, .irqEn),
       (0x020, .cfgDepth), (0x024, .cfgRes), (0x028, .cfgMode), (0x030, .cfgPminLo), (0x034, .cfgPminHi),
       (0x038, .cfgPmaxLo), (0x03C, .cfgPmaxHi), (0x040, .srcRes), (0x044, .srcLen),
       (0x060, .actDepth), (0x064, .actRes), (0x068, .actMode), (0x070, .actPminLo), (0x074, .actPminHi),
       (0x078, .actPmaxLo), (0x07C, .actPmaxHi), (0x080, .packLen), (0x0A0, .errIndex),
       (0x0A4, .errExpLo), (0x0A8, .errExpHi), (0x0AC, .errActLo), (0x0B0, .errActHi),
       (0x0C0, .capPhase), (0x0C4, .capCode), (0x0C8, .capPack), (0x0CC, .capDepth)]
    let accepted :=
      (w = .w32 ∧ ∃ r, (a.toNat, r) ∈ registers) ∨
      (w = .w32 ∧ a.toNat % 4 = 0 ∧ 0x10000000 ≤ a.toNat ∧
        a.toNat < 0x10000000 + 8 * s.caps.phaseEntries) ∨
      (w = .w32 ∧ a.toNat % 4 = 0 ∧ 0x20000000 ≤ a.toNat ∧
        a.toNat < 0x20000000 + 4 * s.caps.codeEntries) ∨
      (a.toNat % (match w with | .w8 => 1 | .w16 => 2 | .w32 => 4) = 0 ∧ 0x30000000 ≤ a.toNat ∧
        a.toNat < 0x30000000 + s.caps.packBytes)
    (busRead w a s = .error (.busReadError 0) ↔ ¬accepted) ∧
    (busWrite w a v s = .error .busWriteError ↔ ¬accepted) ∧
    (∀ r, w = .w32 → (a.toNat, r) ∈ registers →
      busRead w a s = .ok (readReg r s, s) ∧ busWrite w a v s = .ok (writeReg r v s))

/-- R70: a host read changes nothing but the count of free values drawn. -/
def Obligations.ReadsHaveNoSideEffect : Prop :=
  ∀ (s t : Sys2Proof.Machine.State) (w : Width) (a v : Word), busRead w a s = .ok (v, t) →
    t = { s with draws := t.draws }

/-- R65, R67: an 8-, 16- or 32-bit write to a naturally aligned backed PACK address stores its bytes, the least
significant at the lowest address; every aligned read of 8, 16 or 32 bits inside them gives them back in
their lanes; no other byte changes. -/
def Obligations.PackWindowIsLittleEndian : Prop :=
  ∀ (s : Sys2Proof.Machine.State) (w : Width) (k : Nat) (v : Word), capsWellFormed s.caps = true →
    s.engine = .idle →
    let bytes : Width → Nat := fun w => match w with | .w8 => 1 | .w16 => 2 | .w32 => 4
    k % bytes w = 0 → k + bytes w ≤ s.caps.packBytes →
    ∃ t, busWrite w (BitVec.ofNat 32 (0x30000000 + k)) v s = .ok t ∧
      (∀ j, j < bytes w → packByte? t.mem (k + j) = some (v.extractLsb' (8 * j) 8)) ∧
      (∀ (w' : Width) (j : Nat), (k + j) % bytes w' = 0 → j + bytes w' ≤ bytes w →
        busRead w' (BitVec.ofNat 32 (0x30000000 + (k + j))) t =
          .ok ((v >>> (8 * j)) &&& BitVec.ofNat 32 (2 ^ (8 * bytes w') - 1), t)) ∧
      sameOutside (packAddr k) (packAddr (k + bytes w)) s t

/-- R63, R64: a 32-bit write to the PHASE window changes one half of one entry and leaves a stored other half
alone; a write to the CODE window stores all 32 bits; no other byte changes. -/
def Obligations.PhaseAndCodeWindowWrites : Prop :=
  ∀ (s : Sys2Proof.Machine.State) (i : Nat) (v : Word), capsWellFormed s.caps = true → s.engine = .idle →
    (i < s.caps.phaseEntries → ∀ high : Bool, ∃ t w,
      busWrite .w32 (BitVec.ofNat 32 (0x10000000 + 8 * i + if high then 4 else 0)) v s = .ok t ∧
      phaseWord? t.mem i = some w ∧ halfOf high w = v ∧
      (∀ w0, phaseWord? s.mem i = some w0 → halfOf (!high) w = halfOf (!high) w0) ∧
      busRead .w32 (BitVec.ofNat 32 (0x10000000 + 8 * i + if high then 4 else 0)) t = .ok (v, t) ∧
      sameOutside (phaseAddr i) (phaseAddr (i + 1)) s t) ∧
    (i < s.caps.codeEntries → ∃ t,
      busWrite .w32 (BitVec.ofNat 32 (0x20000000 + 4 * i)) v s = .ok t ∧
      codeWord? t.mem i = some v ∧
      busRead .w32 (BitVec.ofNat 32 (0x20000000 + 4 * i)) t = .ok (v, t) ∧
      sameOutside (codeAddr i) (codeAddr (i + 1)) s t)

/-- R215, R71: while a command runs, exactly the writes to words of its read or write range are the
`HostRace` fault. -/
def Obligations.HostRaceExactlyInTheRanges : Prop :=
  ∀ (s : Sys2Proof.Machine.State) (i : Instr) (snap : Snap) (w : Width) (a v : Word),
    s.engine = .running (.command i) snap →
    (∀ r, busTarget s.caps w a = some (.reg r) → busWrite w a v s ≠ .error .hostRace) ∧
    (∀ j high, busTarget s.caps w a = some (.phase j high) →
      (busWrite w a v s = .error .hostRace ↔ (i = .quantize ∨ i = .dequantize) ∧ j < s.act.pixels)) ∧
    (∀ j, busTarget s.caps w a = some (.code j) →
      (busWrite w a v s = .error .hostRace ↔ i ≠ .validate ∧ j < s.act.pixels)) ∧
    (∀ k n, busTarget s.caps w a = some (.pack k n) →
      (busWrite w a v s = .error .hostRace ↔ (i = .pack ∨ i = .unpack) ∧ k < s.act.packedBytes))

/-- R216, R43: while a command runs, a host read of a word of its destination range gives the next free
value, and so does a read of a word never written since reset; a written word outside that range reads as
stored. The destination range is CODE_MEM[0..S−1] for QUANTIZE and UNPACK, PHASE_MEM[0..S−1] for DEQUANTIZE
and PACK_MEM[0..L−1] for PACK. A PACK access decides it byte by byte, the lowest byte drawn first, and its
bits above the access are 0. The free value is the model's: log 2. -/
def Obligations.UnspecifiedReadsAreFree : Prop :=
  ∀ (s : Sys2Proof.Machine.State) (w : Width) (a : Word) (j : Nat),
    let runs : Instr → Bool := fun i => match s.engine with
      | .running (.command c) _ => c == i
      | .running .illegal _ => false
      | .idle => false
    let phaseEarly := runs .dequantize && decide (j < s.act.pixels)
    let codeEarly := (runs .quantize || runs .unpack) && decide (j < s.act.pixels)
    let packFree : Nat → Bool := fun k =>
      (runs .pack && decide (k < s.act.packedBytes)) || (packByte? s.mem k).isNone
    (∀ high, busTarget s.caps w a = some (.phase j high) →
      (phaseEarly = true ∨ phaseWord? s.mem j = none →
        busRead w a s = .ok (halfOf high (Config.freeValue s.draws), { s with draws := s.draws + 1 })) ∧
      (phaseEarly = false → ∀ x, phaseWord? s.mem j = some x →
        busRead w a s = .ok (halfOf high x, s))) ∧
    (busTarget s.caps w a = some (.code j) →
      (codeEarly = true ∨ codeWord? s.mem j = none →
        busRead w a s =
          .ok ((Config.freeValue s.draws).setWidth 32, { s with draws := s.draws + 1 })) ∧
      (codeEarly = false → ∀ x, codeWord? s.mem j = some x →
        busRead w a s = .ok (x, s))) ∧
    (∀ n, busTarget s.caps w a = some (.pack j n) →
      let drawnBefore : Nat → Nat := fun m => (List.range m).countP fun i => packFree (j + i)
      ∃ v, busRead w a s = .ok (v, { s with draws := s.draws + drawnBefore n }) ∧
        v.toNat < 2 ^ (8 * n) ∧
        (∀ m, m < n → packFree (j + m) = true →
          v.extractLsb' (8 * m) 8 = (Config.freeValue (s.draws + drawnBefore m)).setWidth 8) ∧
        (∀ m, m < n → packFree (j + m) = false → ∀ x, packByte? s.mem (j + m) = some x →
          v.extractLsb' (8 * m) 8 = x))

/-- R92, R91, R220: where the Host stands before `run <OP>` with the Engine IDLE and no turn left, four steps
carry it out: the CMD write starts the command, the Engine completes it, the poll of BUSY passes, and the
variable gets the STATUS word, and no other variable changes. The fair schedule is the model's: log 4. -/
def Obligations.RunSequenceEnds : Prop :=
  ∀ (s : Sys2Proof.Machine.State) (i : Instr) (x : Nat), s.engine = .idle → s.turns = [] →
    (∀ n, n < 3 → s.host.prog[s.host.pc + n]? = (hostRun i x)[n]?) →
    ∃ t1 t2 t3 t4, step s = .next t1 ∧ step t1 = .next t2 ∧ step t2 = .next t3 ∧ step t3 = .next t4 ∧
      t1 = { startCommand (encode i) s with host := { s.host with pc := s.host.pc + 1 } } ∧
      exec i t1 = .next t2 ∧
      t4 = { t2 with host := { s.host with
        pc := s.host.pc + 3, vars := setHostVar s.host.vars x (readReg .status t2) } } ∧
      hostVar t4.host.vars x = readReg .status t2 ∧
      (∀ y, y ≠ x → hostVar t4.host.vars y = hostVar s.host.vars y)

/-! ### Whole-machine rules -/

/-- Every step keeps the storage canonical, within the backed addresses, and every word whole (R43, R61). -/
def Obligations.StepKeepsMemoryInvariants : Prop :=
  ∀ s t : Sys2Proof.Machine.State, ActiveInv s → MemInv s → step s = .next t → MemInv t

/-- R108, R34: every step keeps the invariants of the active profile and PACK_LEN. -/
def Obligations.StepKeepsActiveProfileInvariants : Prop :=
  ∀ s t : Sys2Proof.Machine.State, ActiveInv s → step s = .next t → ActiveInv t

/-- R42, R192, R216: every step keeps DONE = 1 implying IDLE, a clear error context while BUSY and after
success, and the running command the decoding of its word. -/
def Obligations.StepKeepsEngineInvariants : Prop :=
  ∀ s t : Sys2Proof.Machine.State, EngineInv s → step s = .next t → EngineInv t

/-- The invariants hold right after reset, for every legal parameter set (R47). -/
def Obligations.InvariantsHoldAtReset : Prop :=
  (∀ c : Config.Caps, capsWellFormed c = true →
    ActiveInv (State.resetWith c) ∧ EngineInv (State.resetWith c) ∧ MemInv (State.resetWith c)) ∧
  ActiveInv State.reset ∧ EngineInv State.reset ∧ MemInv State.reset

/-- R33: a step changes ACT_*, PACK_LEN or PROFILE_VALID only by completing a VALIDATE or by reset. -/
def Obligations.OnlyValidateChangesTheActiveProfile : Prop :=
  ∀ s t : Sys2Proof.Machine.State, step s = .next t →
    (t.act = s.act ∧ t.packLen = s.packLen ∧ t.profileValid = s.profileValid) ∨
    (∃ snap, s.engine = .running (.command .validate) snap ∧ t.engine = .idle) ∨
    (∃ ts, s.turns = .reset :: ts)

/-- R199, R186: a step leaves a running command running, undisturbed, unless it completes it with DONE set,
or is a reset; and no step but a completion sets DONE. -/
def Obligations.OnlyCompletionOrResetEndsACommand : Prop :=
  ∀ s t : Sys2Proof.Machine.State, step s = .next t →
    (∀ op snap, s.engine = .running op snap →
      t.engine = .running op snap ∨ (t.engine = .idle ∧ t.done = true) ∨
        (∃ ts, s.turns = .reset :: ts)) ∧
    (t.done = true → s.done = true ∨ (s.busy = true ∧ t.engine = .idle))
end

