-- ==== Sys2Proof/Laws/State.lean ====
section
/-! SUPPORT. What each shared update does to each field of the state: one lemma per field per update, so that
no later proof unfolds a record update. -/

namespace Sys2Proof.Machine

/-! ### drewOne -/

@[simp] theorem State.drewOne_done (s : State) :
    s.drewOne.done = s.done := rfl
@[simp] theorem State.drewOne_overrun (s : State) :
    s.drewOne.overrun = s.overrun := rfl
@[simp] theorem State.drewOne_profileValid (s : State) :
    s.drewOne.profileValid = s.profileValid := rfl
@[simp] theorem State.drewOne_err (s : State) :
    s.drewOne.err = s.err := rfl
@[simp] theorem State.drewOne_doneIe (s : State) :
    s.drewOne.doneIe = s.doneIe := rfl
@[simp] theorem State.drewOne_cfg (s : State) :
    s.drewOne.cfg = s.cfg := rfl
@[simp] theorem State.drewOne_srcRes (s : State) :
    s.drewOne.srcRes = s.srcRes := rfl
@[simp] theorem State.drewOne_srcLen (s : State) :
    s.drewOne.srcLen = s.srcLen := rfl
@[simp] theorem State.drewOne_act (s : State) :
    s.drewOne.act = s.act := rfl
@[simp] theorem State.drewOne_packLen (s : State) :
    s.drewOne.packLen = s.packLen := rfl
@[simp] theorem State.drewOne_errIndex (s : State) :
    s.drewOne.errIndex = s.errIndex := rfl
@[simp] theorem State.drewOne_errExp (s : State) :
    s.drewOne.errExp = s.errExp := rfl
@[simp] theorem State.drewOne_errAct (s : State) :
    s.drewOne.errAct = s.errAct := rfl
@[simp] theorem State.drewOne_mem (s : State) :
    s.drewOne.mem = s.mem := rfl
@[simp] theorem State.drewOne_engine (s : State) :
    s.drewOne.engine = s.engine := rfl
@[simp] theorem State.drewOne_caps (s : State) :
    s.drewOne.caps = s.caps := rfl
@[simp] theorem State.drewOne_draws (s : State) :
    s.drewOne.draws = s.draws + 1 := rfl
@[simp] theorem State.drewOne_host (s : State) :
    s.drewOne.host = s.host := rfl
@[simp] theorem State.drewOne_turns (s : State) :
    s.drewOne.turns = s.turns := rfl

/-! ### phaseWrite -/

@[simp] theorem phaseWrite_done (i : Nat) (w : Word64) (s : State) :
    (phaseWrite i w s).done = s.done := rfl
@[simp] theorem phaseWrite_overrun (i : Nat) (w : Word64) (s : State) :
    (phaseWrite i w s).overrun = s.overrun := rfl
@[simp] theorem phaseWrite_profileValid (i : Nat) (w : Word64) (s : State) :
    (phaseWrite i w s).profileValid = s.profileValid := rfl
@[simp] theorem phaseWrite_err (i : Nat) (w : Word64) (s : State) :
    (phaseWrite i w s).err = s.err := rfl
@[simp] theorem phaseWrite_doneIe (i : Nat) (w : Word64) (s : State) :
    (phaseWrite i w s).doneIe = s.doneIe := rfl
@[simp] theorem phaseWrite_cfg (i : Nat) (w : Word64) (s : State) :
    (phaseWrite i w s).cfg = s.cfg := rfl
@[simp] theorem phaseWrite_srcRes (i : Nat) (w : Word64) (s : State) :
    (phaseWrite i w s).srcRes = s.srcRes := rfl
@[simp] theorem phaseWrite_srcLen (i : Nat) (w : Word64) (s : State) :
    (phaseWrite i w s).srcLen = s.srcLen := rfl
@[simp] theorem phaseWrite_act (i : Nat) (w : Word64) (s : State) :
    (phaseWrite i w s).act = s.act := rfl
@[simp] theorem phaseWrite_packLen (i : Nat) (w : Word64) (s : State) :
    (phaseWrite i w s).packLen = s.packLen := rfl
@[simp] theorem phaseWrite_errIndex (i : Nat) (w : Word64) (s : State) :
    (phaseWrite i w s).errIndex = s.errIndex := rfl
@[simp] theorem phaseWrite_errExp (i : Nat) (w : Word64) (s : State) :
    (phaseWrite i w s).errExp = s.errExp := rfl
@[simp] theorem phaseWrite_errAct (i : Nat) (w : Word64) (s : State) :
    (phaseWrite i w s).errAct = s.errAct := rfl
@[simp] theorem phaseWrite_mem (i : Nat) (w : Word64) (s : State) :
    (phaseWrite i w s).mem = memWrite s.mem (phaseAddr i) 8 w.toNat := rfl
@[simp] theorem phaseWrite_engine (i : Nat) (w : Word64) (s : State) :
    (phaseWrite i w s).engine = s.engine := rfl
@[simp] theorem phaseWrite_caps (i : Nat) (w : Word64) (s : State) :
    (phaseWrite i w s).caps = s.caps := rfl
@[simp] theorem phaseWrite_draws (i : Nat) (w : Word64) (s : State) :
    (phaseWrite i w s).draws = s.draws := rfl
@[simp] theorem phaseWrite_host (i : Nat) (w : Word64) (s : State) :
    (phaseWrite i w s).host = s.host := rfl
@[simp] theorem phaseWrite_turns (i : Nat) (w : Word64) (s : State) :
    (phaseWrite i w s).turns = s.turns := rfl

/-! ### codeWrite -/

@[simp] theorem codeWrite_done (i : Nat) (c : Word) (s : State) :
    (codeWrite i c s).done = s.done := rfl
@[simp] theorem codeWrite_overrun (i : Nat) (c : Word) (s : State) :
    (codeWrite i c s).overrun = s.overrun := rfl
@[simp] theorem codeWrite_profileValid (i : Nat) (c : Word) (s : State) :
    (codeWrite i c s).profileValid = s.profileValid := rfl
@[simp] theorem codeWrite_err (i : Nat) (c : Word) (s : State) :
    (codeWrite i c s).err = s.err := rfl
@[simp] theorem codeWrite_doneIe (i : Nat) (c : Word) (s : State) :
    (codeWrite i c s).doneIe = s.doneIe := rfl
@[simp] theorem codeWrite_cfg (i : Nat) (c : Word) (s : State) :
    (codeWrite i c s).cfg = s.cfg := rfl
@[simp] theorem codeWrite_srcRes (i : Nat) (c : Word) (s : State) :
    (codeWrite i c s).srcRes = s.srcRes := rfl
@[simp] theorem codeWrite_srcLen (i : Nat) (c : Word) (s : State) :
    (codeWrite i c s).srcLen = s.srcLen := rfl
@[simp] theorem codeWrite_act (i : Nat) (c : Word) (s : State) :
    (codeWrite i c s).act = s.act := rfl
@[simp] theorem codeWrite_packLen (i : Nat) (c : Word) (s : State) :
    (codeWrite i c s).packLen = s.packLen := rfl
@[simp] theorem codeWrite_errIndex (i : Nat) (c : Word) (s : State) :
    (codeWrite i c s).errIndex = s.errIndex := rfl
@[simp] theorem codeWrite_errExp (i : Nat) (c : Word) (s : State) :
    (codeWrite i c s).errExp = s.errExp := rfl
@[simp] theorem codeWrite_errAct (i : Nat) (c : Word) (s : State) :
    (codeWrite i c s).errAct = s.errAct := rfl
@[simp] theorem codeWrite_mem (i : Nat) (c : Word) (s : State) :
    (codeWrite i c s).mem = memWrite s.mem (codeAddr i) 4 c.toNat := rfl
@[simp] theorem codeWrite_engine (i : Nat) (c : Word) (s : State) :
    (codeWrite i c s).engine = s.engine := rfl
@[simp] theorem codeWrite_caps (i : Nat) (c : Word) (s : State) :
    (codeWrite i c s).caps = s.caps := rfl
@[simp] theorem codeWrite_draws (i : Nat) (c : Word) (s : State) :
    (codeWrite i c s).draws = s.draws := rfl
@[simp] theorem codeWrite_host (i : Nat) (c : Word) (s : State) :
    (codeWrite i c s).host = s.host := rfl
@[simp] theorem codeWrite_turns (i : Nat) (c : Word) (s : State) :
    (codeWrite i c s).turns = s.turns := rfl

/-! ### packWrite -/

@[simp] theorem packWrite_done (k : Nat) (b : Byte) (s : State) :
    (packWrite k b s).done = s.done := rfl
@[simp] theorem packWrite_overrun (k : Nat) (b : Byte) (s : State) :
    (packWrite k b s).overrun = s.overrun := rfl
@[simp] theorem packWrite_profileValid (k : Nat) (b : Byte) (s : State) :
    (packWrite k b s).profileValid = s.profileValid := rfl
@[simp] theorem packWrite_err (k : Nat) (b : Byte) (s : State) :
    (packWrite k b s).err = s.err := rfl
@[simp] theorem packWrite_doneIe (k : Nat) (b : Byte) (s : State) :
    (packWrite k b s).doneIe = s.doneIe := rfl
@[simp] theorem packWrite_cfg (k : Nat) (b : Byte) (s : State) :
    (packWrite k b s).cfg = s.cfg := rfl
@[simp] theorem packWrite_srcRes (k : Nat) (b : Byte) (s : State) :
    (packWrite k b s).srcRes = s.srcRes := rfl
@[simp] theorem packWrite_srcLen (k : Nat) (b : Byte) (s : State) :
    (packWrite k b s).srcLen = s.srcLen := rfl
@[simp] theorem packWrite_act (k : Nat) (b : Byte) (s : State) :
    (packWrite k b s).act = s.act := rfl
@[simp] theorem packWrite_packLen (k : Nat) (b : Byte) (s : State) :
    (packWrite k b s).packLen = s.packLen := rfl
@[simp] theorem packWrite_errIndex (k : Nat) (b : Byte) (s : State) :
    (packWrite k b s).errIndex = s.errIndex := rfl
@[simp] theorem packWrite_errExp (k : Nat) (b : Byte) (s : State) :
    (packWrite k b s).errExp = s.errExp := rfl
@[simp] theorem packWrite_errAct (k : Nat) (b : Byte) (s : State) :
    (packWrite k b s).errAct = s.errAct := rfl
@[simp] theorem packWrite_mem (k : Nat) (b : Byte) (s : State) :
    (packWrite k b s).mem = memSet s.mem (packAddr k) b := rfl
@[simp] theorem packWrite_engine (k : Nat) (b : Byte) (s : State) :
    (packWrite k b s).engine = s.engine := rfl
@[simp] theorem packWrite_caps (k : Nat) (b : Byte) (s : State) :
    (packWrite k b s).caps = s.caps := rfl
@[simp] theorem packWrite_draws (k : Nat) (b : Byte) (s : State) :
    (packWrite k b s).draws = s.draws := rfl
@[simp] theorem packWrite_host (k : Nat) (b : Byte) (s : State) :
    (packWrite k b s).host = s.host := rfl
@[simp] theorem packWrite_turns (k : Nat) (b : Byte) (s : State) :
    (packWrite k b s).turns = s.turns := rfl

/-! ### startCommand -/

@[simp] theorem startCommand_done (cw : Word) (s : State) :
    (startCommand cw s).done = false := rfl
@[simp] theorem startCommand_overrun (cw : Word) (s : State) :
    (startCommand cw s).overrun = s.overrun := rfl
@[simp] theorem startCommand_profileValid (cw : Word) (s : State) :
    (startCommand cw s).profileValid = s.profileValid := rfl
@[simp] theorem startCommand_err (cw : Word) (s : State) :
    (startCommand cw s).err = .noError := rfl
@[simp] theorem startCommand_doneIe (cw : Word) (s : State) :
    (startCommand cw s).doneIe = s.doneIe := rfl
@[simp] theorem startCommand_cfg (cw : Word) (s : State) :
    (startCommand cw s).cfg = s.cfg := rfl
@[simp] theorem startCommand_srcRes (cw : Word) (s : State) :
    (startCommand cw s).srcRes = s.srcRes := rfl
@[simp] theorem startCommand_srcLen (cw : Word) (s : State) :
    (startCommand cw s).srcLen = s.srcLen := rfl
@[simp] theorem startCommand_act (cw : Word) (s : State) :
    (startCommand cw s).act = s.act := rfl
@[simp] theorem startCommand_packLen (cw : Word) (s : State) :
    (startCommand cw s).packLen = s.packLen := rfl
@[simp] theorem startCommand_errIndex (cw : Word) (s : State) :
    (startCommand cw s).errIndex = 0 := rfl
@[simp] theorem startCommand_errExp (cw : Word) (s : State) :
    (startCommand cw s).errExp = 0 := rfl
@[simp] theorem startCommand_errAct (cw : Word) (s : State) :
    (startCommand cw s).errAct = 0 := rfl
@[simp] theorem startCommand_mem (cw : Word) (s : State) :
    (startCommand cw s).mem = s.mem := rfl
@[simp] theorem startCommand_engine (cw : Word) (s : State) :
    (startCommand cw s).engine = .running (opOf cw) (s.sample cw) := rfl
@[simp] theorem startCommand_caps (cw : Word) (s : State) :
    (startCommand cw s).caps = s.caps := rfl
@[simp] theorem startCommand_draws (cw : Word) (s : State) :
    (startCommand cw s).draws = s.draws := rfl
@[simp] theorem startCommand_host (cw : Word) (s : State) :
    (startCommand cw s).host = s.host := rfl
@[simp] theorem startCommand_turns (cw : Word) (s : State) :
    (startCommand cw s).turns = s.turns := rfl

/-! ### completeWith -/

@[simp] theorem completeWith_done (k : ErrKind) (i : Word) (e a : Word64) (s : State) :
    (completeWith k i e a s).done = true := rfl
@[simp] theorem completeWith_overrun (k : ErrKind) (i : Word) (e a : Word64) (s : State) :
    (completeWith k i e a s).overrun = s.overrun := rfl
@[simp] theorem completeWith_profileValid (k : ErrKind) (i : Word) (e a : Word64) (s : State) :
    (completeWith k i e a s).profileValid = s.profileValid := rfl
@[simp] theorem completeWith_err (k : ErrKind) (i : Word) (e a : Word64) (s : State) :
    (completeWith k i e a s).err = k := rfl
@[simp] theorem completeWith_doneIe (k : ErrKind) (i : Word) (e a : Word64) (s : State) :
    (completeWith k i e a s).doneIe = s.doneIe := rfl
@[simp] theorem completeWith_cfg (k : ErrKind) (i : Word) (e a : Word64) (s : State) :
    (completeWith k i e a s).cfg = s.cfg := rfl
@[simp] theorem completeWith_srcRes (k : ErrKind) (i : Word) (e a : Word64) (s : State) :
    (completeWith k i e a s).srcRes = s.srcRes := rfl
@[simp] theorem completeWith_srcLen (k : ErrKind) (i : Word) (e a : Word64) (s : State) :
    (completeWith k i e a s).srcLen = s.srcLen := rfl
@[simp] theorem completeWith_act (k : ErrKind) (i : Word) (e a : Word64) (s : State) :
    (completeWith k i e a s).act = s.act := rfl
@[simp] theorem completeWith_packLen (k : ErrKind) (i : Word) (e a : Word64) (s : State) :
    (completeWith k i e a s).packLen = s.packLen := rfl
@[simp] theorem completeWith_errIndex (k : ErrKind) (i : Word) (e a : Word64) (s : State) :
    (completeWith k i e a s).errIndex = i := rfl
@[simp] theorem completeWith_errExp (k : ErrKind) (i : Word) (e a : Word64) (s : State) :
    (completeWith k i e a s).errExp = e := rfl
@[simp] theorem completeWith_errAct (k : ErrKind) (i : Word) (e a : Word64) (s : State) :
    (completeWith k i e a s).errAct = a := rfl
@[simp] theorem completeWith_mem (k : ErrKind) (i : Word) (e a : Word64) (s : State) :
    (completeWith k i e a s).mem = s.mem := rfl
@[simp] theorem completeWith_engine (k : ErrKind) (i : Word) (e a : Word64) (s : State) :
    (completeWith k i e a s).engine = .idle := rfl
@[simp] theorem completeWith_caps (k : ErrKind) (i : Word) (e a : Word64) (s : State) :
    (completeWith k i e a s).caps = s.caps := rfl
@[simp] theorem completeWith_draws (k : ErrKind) (i : Word) (e a : Word64) (s : State) :
    (completeWith k i e a s).draws = s.draws := rfl
@[simp] theorem completeWith_host (k : ErrKind) (i : Word) (e a : Word64) (s : State) :
    (completeWith k i e a s).host = s.host := rfl
@[simp] theorem completeWith_turns (k : ErrKind) (i : Word) (e a : Word64) (s : State) :
    (completeWith k i e a s).turns = s.turns := rfl

/-! ### completeOk -/

@[simp] theorem completeOk_done (s : State) :
    (completeOk s).done = true := rfl
@[simp] theorem completeOk_overrun (s : State) :
    (completeOk s).overrun = s.overrun := rfl
@[simp] theorem completeOk_profileValid (s : State) :
    (completeOk s).profileValid = s.profileValid := rfl
@[simp] theorem completeOk_err (s : State) :
    (completeOk s).err = .noError := rfl
@[simp] theorem completeOk_doneIe (s : State) :
    (completeOk s).doneIe = s.doneIe := rfl
@[simp] theorem completeOk_cfg (s : State) :
    (completeOk s).cfg = s.cfg := rfl
@[simp] theorem completeOk_srcRes (s : State) :
    (completeOk s).srcRes = s.srcRes := rfl
@[simp] theorem completeOk_srcLen (s : State) :
    (completeOk s).srcLen = s.srcLen := rfl
@[simp] theorem completeOk_act (s : State) :
    (completeOk s).act = s.act := rfl
@[simp] theorem completeOk_packLen (s : State) :
    (completeOk s).packLen = s.packLen := rfl
@[simp] theorem completeOk_errIndex (s : State) :
    (completeOk s).errIndex = 0 := rfl
@[simp] theorem completeOk_errExp (s : State) :
    (completeOk s).errExp = 0 := rfl
@[simp] theorem completeOk_errAct (s : State) :
    (completeOk s).errAct = 0 := rfl
@[simp] theorem completeOk_mem (s : State) :
    (completeOk s).mem = s.mem := rfl
@[simp] theorem completeOk_engine (s : State) :
    (completeOk s).engine = .idle := rfl
@[simp] theorem completeOk_caps (s : State) :
    (completeOk s).caps = s.caps := rfl
@[simp] theorem completeOk_draws (s : State) :
    (completeOk s).draws = s.draws := rfl
@[simp] theorem completeOk_host (s : State) :
    (completeOk s).host = s.host := rfl
@[simp] theorem completeOk_turns (s : State) :
    (completeOk s).turns = s.turns := rfl

/-! ### raiseError -/

@[simp] theorem raiseError_done (k : ErrKind) (i : Nat) (e a : Word64) (s : State) :
    (raiseError k i e a s).done = true := rfl
@[simp] theorem raiseError_overrun (k : ErrKind) (i : Nat) (e a : Word64) (s : State) :
    (raiseError k i e a s).overrun = s.overrun := rfl
@[simp] theorem raiseError_profileValid (k : ErrKind) (i : Nat) (e a : Word64) (s : State) :
    (raiseError k i e a s).profileValid = s.profileValid := rfl
@[simp] theorem raiseError_err (k : ErrKind) (i : Nat) (e a : Word64) (s : State) :
    (raiseError k i e a s).err = k := rfl
@[simp] theorem raiseError_doneIe (k : ErrKind) (i : Nat) (e a : Word64) (s : State) :
    (raiseError k i e a s).doneIe = s.doneIe := rfl
@[simp] theorem raiseError_cfg (k : ErrKind) (i : Nat) (e a : Word64) (s : State) :
    (raiseError k i e a s).cfg = s.cfg := rfl
@[simp] theorem raiseError_srcRes (k : ErrKind) (i : Nat) (e a : Word64) (s : State) :
    (raiseError k i e a s).srcRes = s.srcRes := rfl
@[simp] theorem raiseError_srcLen (k : ErrKind) (i : Nat) (e a : Word64) (s : State) :
    (raiseError k i e a s).srcLen = s.srcLen := rfl
@[simp] theorem raiseError_act (k : ErrKind) (i : Nat) (e a : Word64) (s : State) :
    (raiseError k i e a s).act = s.act := rfl
@[simp] theorem raiseError_packLen (k : ErrKind) (i : Nat) (e a : Word64) (s : State) :
    (raiseError k i e a s).packLen = s.packLen := rfl
@[simp] theorem raiseError_errIndex (k : ErrKind) (i : Nat) (e a : Word64) (s : State) :
    (raiseError k i e a s).errIndex = BitVec.ofNat 32 i := rfl
@[simp] theorem raiseError_errExp (k : ErrKind) (i : Nat) (e a : Word64) (s : State) :
    (raiseError k i e a s).errExp = e := rfl
@[simp] theorem raiseError_errAct (k : ErrKind) (i : Nat) (e a : Word64) (s : State) :
    (raiseError k i e a s).errAct = a := rfl
@[simp] theorem raiseError_mem (k : ErrKind) (i : Nat) (e a : Word64) (s : State) :
    (raiseError k i e a s).mem = s.mem := rfl
@[simp] theorem raiseError_engine (k : ErrKind) (i : Nat) (e a : Word64) (s : State) :
    (raiseError k i e a s).engine = .idle := rfl
@[simp] theorem raiseError_caps (k : ErrKind) (i : Nat) (e a : Word64) (s : State) :
    (raiseError k i e a s).caps = s.caps := rfl
@[simp] theorem raiseError_draws (k : ErrKind) (i : Nat) (e a : Word64) (s : State) :
    (raiseError k i e a s).draws = s.draws := rfl
@[simp] theorem raiseError_host (k : ErrKind) (i : Nat) (e a : Word64) (s : State) :
    (raiseError k i e a s).host = s.host := rfl
@[simp] theorem raiseError_turns (k : ErrKind) (i : Nat) (e a : Word64) (s : State) :
    (raiseError k i e a s).turns = s.turns := rfl

/-! ### invalidateProfile -/

@[simp] theorem invalidateProfile_done (s : State) :
    (invalidateProfile s).done = s.done := rfl
@[simp] theorem invalidateProfile_overrun (s : State) :
    (invalidateProfile s).overrun = s.overrun := rfl
@[simp] theorem invalidateProfile_profileValid (s : State) :
    (invalidateProfile s).profileValid = false := rfl
@[simp] theorem invalidateProfile_err (s : State) :
    (invalidateProfile s).err = s.err := rfl
@[simp] theorem invalidateProfile_doneIe (s : State) :
    (invalidateProfile s).doneIe = s.doneIe := rfl
@[simp] theorem invalidateProfile_cfg (s : State) :
    (invalidateProfile s).cfg = s.cfg := rfl
@[simp] theorem invalidateProfile_srcRes (s : State) :
    (invalidateProfile s).srcRes = s.srcRes := rfl
@[simp] theorem invalidateProfile_srcLen (s : State) :
    (invalidateProfile s).srcLen = s.srcLen := rfl
@[simp] theorem invalidateProfile_act (s : State) :
    (invalidateProfile s).act = Profile.zero := rfl
@[simp] theorem invalidateProfile_packLen (s : State) :
    (invalidateProfile s).packLen = 0 := rfl
@[simp] theorem invalidateProfile_errIndex (s : State) :
    (invalidateProfile s).errIndex = s.errIndex := rfl
@[simp] theorem invalidateProfile_errExp (s : State) :
    (invalidateProfile s).errExp = s.errExp := rfl
@[simp] theorem invalidateProfile_errAct (s : State) :
    (invalidateProfile s).errAct = s.errAct := rfl
@[simp] theorem invalidateProfile_mem (s : State) :
    (invalidateProfile s).mem = s.mem := rfl
@[simp] theorem invalidateProfile_engine (s : State) :
    (invalidateProfile s).engine = s.engine := rfl
@[simp] theorem invalidateProfile_caps (s : State) :
    (invalidateProfile s).caps = s.caps := rfl
@[simp] theorem invalidateProfile_draws (s : State) :
    (invalidateProfile s).draws = s.draws := rfl
@[simp] theorem invalidateProfile_host (s : State) :
    (invalidateProfile s).host = s.host := rfl
@[simp] theorem invalidateProfile_turns (s : State) :
    (invalidateProfile s).turns = s.turns := rfl

/-! ### latchProfile -/

@[simp] theorem latchProfile_done (p : Profile) (s : State) :
    (latchProfile p s).done = s.done := rfl
@[simp] theorem latchProfile_overrun (p : Profile) (s : State) :
    (latchProfile p s).overrun = s.overrun := rfl
@[simp] theorem latchProfile_profileValid (p : Profile) (s : State) :
    (latchProfile p s).profileValid = true := rfl
@[simp] theorem latchProfile_err (p : Profile) (s : State) :
    (latchProfile p s).err = s.err := rfl
@[simp] theorem latchProfile_doneIe (p : Profile) (s : State) :
    (latchProfile p s).doneIe = s.doneIe := rfl
@[simp] theorem latchProfile_cfg (p : Profile) (s : State) :
    (latchProfile p s).cfg = s.cfg := rfl
@[simp] theorem latchProfile_srcRes (p : Profile) (s : State) :
    (latchProfile p s).srcRes = s.srcRes := rfl
@[simp] theorem latchProfile_srcLen (p : Profile) (s : State) :
    (latchProfile p s).srcLen = s.srcLen := rfl
@[simp] theorem latchProfile_act (p : Profile) (s : State) :
    (latchProfile p s).act = p := rfl
@[simp] theorem latchProfile_packLen (p : Profile) (s : State) :
    (latchProfile p s).packLen = BitVec.ofNat 32 p.packedBytes := rfl
@[simp] theorem latchProfile_errIndex (p : Profile) (s : State) :
    (latchProfile p s).errIndex = s.errIndex := rfl
@[simp] theorem latchProfile_errExp (p : Profile) (s : State) :
    (latchProfile p s).errExp = s.errExp := rfl
@[simp] theorem latchProfile_errAct (p : Profile) (s : State) :
    (latchProfile p s).errAct = s.errAct := rfl
@[simp] theorem latchProfile_mem (p : Profile) (s : State) :
    (latchProfile p s).mem = s.mem := rfl
@[simp] theorem latchProfile_engine (p : Profile) (s : State) :
    (latchProfile p s).engine = s.engine := rfl
@[simp] theorem latchProfile_caps (p : Profile) (s : State) :
    (latchProfile p s).caps = s.caps := rfl
@[simp] theorem latchProfile_draws (p : Profile) (s : State) :
    (latchProfile p s).draws = s.draws := rfl
@[simp] theorem latchProfile_host (p : Profile) (s : State) :
    (latchProfile p s).host = s.host := rfl
@[simp] theorem latchProfile_turns (p : Profile) (s : State) :
    (latchProfile p s).turns = s.turns := rfl

/-! ### statusWrite -/

@[simp] theorem statusWrite_done (v : Word) (s : State) :
    (statusWrite v s).done = (s.done && !(v.getLsbD 1)) := rfl
@[simp] theorem statusWrite_overrun (v : Word) (s : State) :
    (statusWrite v s).overrun = (s.overrun && !(v.getLsbD 3)) := rfl
@[simp] theorem statusWrite_profileValid (v : Word) (s : State) :
    (statusWrite v s).profileValid = s.profileValid := rfl
@[simp] theorem statusWrite_err (v : Word) (s : State) :
    (statusWrite v s).err = s.err := rfl
@[simp] theorem statusWrite_doneIe (v : Word) (s : State) :
    (statusWrite v s).doneIe = s.doneIe := rfl
@[simp] theorem statusWrite_cfg (v : Word) (s : State) :
    (statusWrite v s).cfg = s.cfg := rfl
@[simp] theorem statusWrite_srcRes (v : Word) (s : State) :
    (statusWrite v s).srcRes = s.srcRes := rfl
@[simp] theorem statusWrite_srcLen (v : Word) (s : State) :
    (statusWrite v s).srcLen = s.srcLen := rfl
@[simp] theorem statusWrite_act (v : Word) (s : State) :
    (statusWrite v s).act = s.act := rfl
@[simp] theorem statusWrite_packLen (v : Word) (s : State) :
    (statusWrite v s).packLen = s.packLen := rfl
@[simp] theorem statusWrite_errIndex (v : Word) (s : State) :
    (statusWrite v s).errIndex = s.errIndex := rfl
@[simp] theorem statusWrite_errExp (v : Word) (s : State) :
    (statusWrite v s).errExp = s.errExp := rfl
@[simp] theorem statusWrite_errAct (v : Word) (s : State) :
    (statusWrite v s).errAct = s.errAct := rfl
@[simp] theorem statusWrite_mem (v : Word) (s : State) :
    (statusWrite v s).mem = s.mem := rfl
@[simp] theorem statusWrite_engine (v : Word) (s : State) :
    (statusWrite v s).engine = s.engine := rfl
@[simp] theorem statusWrite_caps (v : Word) (s : State) :
    (statusWrite v s).caps = s.caps := rfl
@[simp] theorem statusWrite_draws (v : Word) (s : State) :
    (statusWrite v s).draws = s.draws := rfl
@[simp] theorem statusWrite_host (v : Word) (s : State) :
    (statusWrite v s).host = s.host := rfl
@[simp] theorem statusWrite_turns (v : Word) (s : State) :
    (statusWrite v s).turns = s.turns := rfl

/-! ### hostGoto -/

@[simp] theorem hostGoto_done (n : Nat) (s : State) :
    (hostGoto n s).done = s.done := rfl
@[simp] theorem hostGoto_overrun (n : Nat) (s : State) :
    (hostGoto n s).overrun = s.overrun := rfl
@[simp] theorem hostGoto_profileValid (n : Nat) (s : State) :
    (hostGoto n s).profileValid = s.profileValid := rfl
@[simp] theorem hostGoto_err (n : Nat) (s : State) :
    (hostGoto n s).err = s.err := rfl
@[simp] theorem hostGoto_doneIe (n : Nat) (s : State) :
    (hostGoto n s).doneIe = s.doneIe := rfl
@[simp] theorem hostGoto_cfg (n : Nat) (s : State) :
    (hostGoto n s).cfg = s.cfg := rfl
@[simp] theorem hostGoto_srcRes (n : Nat) (s : State) :
    (hostGoto n s).srcRes = s.srcRes := rfl
@[simp] theorem hostGoto_srcLen (n : Nat) (s : State) :
    (hostGoto n s).srcLen = s.srcLen := rfl
@[simp] theorem hostGoto_act (n : Nat) (s : State) :
    (hostGoto n s).act = s.act := rfl
@[simp] theorem hostGoto_packLen (n : Nat) (s : State) :
    (hostGoto n s).packLen = s.packLen := rfl
@[simp] theorem hostGoto_errIndex (n : Nat) (s : State) :
    (hostGoto n s).errIndex = s.errIndex := rfl
@[simp] theorem hostGoto_errExp (n : Nat) (s : State) :
    (hostGoto n s).errExp = s.errExp := rfl
@[simp] theorem hostGoto_errAct (n : Nat) (s : State) :
    (hostGoto n s).errAct = s.errAct := rfl
@[simp] theorem hostGoto_mem (n : Nat) (s : State) :
    (hostGoto n s).mem = s.mem := rfl
@[simp] theorem hostGoto_engine (n : Nat) (s : State) :
    (hostGoto n s).engine = s.engine := rfl
@[simp] theorem hostGoto_caps (n : Nat) (s : State) :
    (hostGoto n s).caps = s.caps := rfl
@[simp] theorem hostGoto_draws (n : Nat) (s : State) :
    (hostGoto n s).draws = s.draws := rfl
@[simp] theorem hostGoto_host (n : Nat) (s : State) :
    (hostGoto n s).host = { s.host with pc := n } := rfl
@[simp] theorem hostGoto_turns (n : Nat) (s : State) :
    (hostGoto n s).turns = s.turns := rfl

/-! ### hostNext -/

@[simp] theorem hostNext_done (s : State) :
    (hostNext s).done = s.done := rfl
@[simp] theorem hostNext_overrun (s : State) :
    (hostNext s).overrun = s.overrun := rfl
@[simp] theorem hostNext_profileValid (s : State) :
    (hostNext s).profileValid = s.profileValid := rfl
@[simp] theorem hostNext_err (s : State) :
    (hostNext s).err = s.err := rfl
@[simp] theorem hostNext_doneIe (s : State) :
    (hostNext s).doneIe = s.doneIe := rfl
@[simp] theorem hostNext_cfg (s : State) :
    (hostNext s).cfg = s.cfg := rfl
@[simp] theorem hostNext_srcRes (s : State) :
    (hostNext s).srcRes = s.srcRes := rfl
@[simp] theorem hostNext_srcLen (s : State) :
    (hostNext s).srcLen = s.srcLen := rfl
@[simp] theorem hostNext_act (s : State) :
    (hostNext s).act = s.act := rfl
@[simp] theorem hostNext_packLen (s : State) :
    (hostNext s).packLen = s.packLen := rfl
@[simp] theorem hostNext_errIndex (s : State) :
    (hostNext s).errIndex = s.errIndex := rfl
@[simp] theorem hostNext_errExp (s : State) :
    (hostNext s).errExp = s.errExp := rfl
@[simp] theorem hostNext_errAct (s : State) :
    (hostNext s).errAct = s.errAct := rfl
@[simp] theorem hostNext_mem (s : State) :
    (hostNext s).mem = s.mem := rfl
@[simp] theorem hostNext_engine (s : State) :
    (hostNext s).engine = s.engine := rfl
@[simp] theorem hostNext_caps (s : State) :
    (hostNext s).caps = s.caps := rfl
@[simp] theorem hostNext_draws (s : State) :
    (hostNext s).draws = s.draws := rfl
@[simp] theorem hostNext_host (s : State) :
    (hostNext s).host = { s.host with pc := s.host.pc + 1 } := rfl
@[simp] theorem hostNext_turns (s : State) :
    (hostNext s).turns = s.turns := rfl

/-! ### hostBind -/

@[simp] theorem hostBind_done (x : Nat) (v : Word) (s : State) :
    (hostBind x v s).done = s.done := rfl
@[simp] theorem hostBind_overrun (x : Nat) (v : Word) (s : State) :
    (hostBind x v s).overrun = s.overrun := rfl
@[simp] theorem hostBind_profileValid (x : Nat) (v : Word) (s : State) :
    (hostBind x v s).profileValid = s.profileValid := rfl
@[simp] theorem hostBind_err (x : Nat) (v : Word) (s : State) :
    (hostBind x v s).err = s.err := rfl
@[simp] theorem hostBind_doneIe (x : Nat) (v : Word) (s : State) :
    (hostBind x v s).doneIe = s.doneIe := rfl
@[simp] theorem hostBind_cfg (x : Nat) (v : Word) (s : State) :
    (hostBind x v s).cfg = s.cfg := rfl
@[simp] theorem hostBind_srcRes (x : Nat) (v : Word) (s : State) :
    (hostBind x v s).srcRes = s.srcRes := rfl
@[simp] theorem hostBind_srcLen (x : Nat) (v : Word) (s : State) :
    (hostBind x v s).srcLen = s.srcLen := rfl
@[simp] theorem hostBind_act (x : Nat) (v : Word) (s : State) :
    (hostBind x v s).act = s.act := rfl
@[simp] theorem hostBind_packLen (x : Nat) (v : Word) (s : State) :
    (hostBind x v s).packLen = s.packLen := rfl
@[simp] theorem hostBind_errIndex (x : Nat) (v : Word) (s : State) :
    (hostBind x v s).errIndex = s.errIndex := rfl
@[simp] theorem hostBind_errExp (x : Nat) (v : Word) (s : State) :
    (hostBind x v s).errExp = s.errExp := rfl
@[simp] theorem hostBind_errAct (x : Nat) (v : Word) (s : State) :
    (hostBind x v s).errAct = s.errAct := rfl
@[simp] theorem hostBind_mem (x : Nat) (v : Word) (s : State) :
    (hostBind x v s).mem = s.mem := rfl
@[simp] theorem hostBind_engine (x : Nat) (v : Word) (s : State) :
    (hostBind x v s).engine = s.engine := rfl
@[simp] theorem hostBind_caps (x : Nat) (v : Word) (s : State) :
    (hostBind x v s).caps = s.caps := rfl
@[simp] theorem hostBind_draws (x : Nat) (v : Word) (s : State) :
    (hostBind x v s).draws = s.draws := rfl
@[simp] theorem hostBind_host (x : Nat) (v : Word) (s : State) :
    (hostBind x v s).host = { s.host with vars := setHostVar s.host.vars x v } := rfl
@[simp] theorem hostBind_turns (x : Nat) (v : Word) (s : State) :
    (hostBind x v s).turns = s.turns := rfl

/-! ### resetInput -/

@[simp] theorem resetInput_done (s : State) :
    (resetInput s).done = false := rfl
@[simp] theorem resetInput_overrun (s : State) :
    (resetInput s).overrun = false := rfl
@[simp] theorem resetInput_profileValid (s : State) :
    (resetInput s).profileValid = false := rfl
@[simp] theorem resetInput_err (s : State) :
    (resetInput s).err = .noError := rfl
@[simp] theorem resetInput_doneIe (s : State) :
    (resetInput s).doneIe = false := rfl
@[simp] theorem resetInput_cfg (s : State) :
    (resetInput s).cfg = Profile.zero := rfl
@[simp] theorem resetInput_srcRes (s : State) :
    (resetInput s).srcRes = 0 := rfl
@[simp] theorem resetInput_srcLen (s : State) :
    (resetInput s).srcLen = 0 := rfl
@[simp] theorem resetInput_act (s : State) :
    (resetInput s).act = Profile.zero := rfl
@[simp] theorem resetInput_packLen (s : State) :
    (resetInput s).packLen = 0 := rfl
@[simp] theorem resetInput_errIndex (s : State) :
    (resetInput s).errIndex = 0 := rfl
@[simp] theorem resetInput_errExp (s : State) :
    (resetInput s).errExp = 0 := rfl
@[simp] theorem resetInput_errAct (s : State) :
    (resetInput s).errAct = 0 := rfl
@[simp] theorem resetInput_mem (s : State) :
    (resetInput s).mem = [] := rfl
@[simp] theorem resetInput_engine (s : State) :
    (resetInput s).engine = .idle := rfl
@[simp] theorem resetInput_caps (s : State) :
    (resetInput s).caps = s.caps := rfl
@[simp] theorem resetInput_draws (s : State) :
    (resetInput s).draws = s.draws := rfl
@[simp] theorem resetInput_host (s : State) :
    (resetInput s).host = s.host := rfl
@[simp] theorem resetInput_turns (s : State) :
    (resetInput s).turns = s.turns := rfl

end Sys2Proof.Machine
end

