-- ==== Sys2Proof/Laws/Memory.lean ====
section
/-! SUPPORT. The laws of the byte storage: reading after writing, what a write leaves alone, and that every
operation keeps the canonical form. -/

namespace Sys2Proof.Machine

/-! ### One byte -/

theorem memByte?_memSet (m : Memory) (a : Nat) (b : Byte) (x : Nat) :
    memByte? (memSet m a b) x = if x = a then some b else memByte? m x := by
  induction m with
  | nil => simp [memSet, memByte?, eq_comm]
  | cons c m ih =>
    obtain ⟨k, v⟩ := c
    simp only [memSet]
    split
    · simp [memByte?, eq_comm]
    · split
      · next hk => subst hk; by_cases hx : a = x <;> simp [memByte?, hx, eq_comm]
      · next hk =>
        by_cases hx : k = x
        · subst hx; simp [memByte?, Ne.symm hk]
        · simp [memByte?, hx, ih]

@[simp] theorem memByte?_memSet_same (m : Memory) (a : Nat) (b : Byte) :
    memByte? (memSet m a b) a = some b := by simp [memByte?_memSet]

theorem memByte?_memSet_other (m : Memory) {a x : Nat} (b : Byte) (h : x ≠ a) :
    memByte? (memSet m a b) x = memByte? m x := by simp [memByte?_memSet, h]

/-! ### The canonical form -/

theorem Memory.wf_tail {c : Host.Cell} {m : Memory} (h : Memory.wf (c :: m) = true) :
    Memory.wf m = true := by
  cases m with
  | nil => rfl
  | cons d m => simp [Memory.wf] at h; exact h.2

/-- The first address of a memory is below `k`, or the memory is empty. -/
theorem Memory.wf_cons {c : Host.Cell} {m : Memory} :
    Memory.wf (c :: m) = true ↔ Memory.wf m = true ∧ ∀ d ∈ m.head?, c.1 < d.1 := by
  cases m with
  | nil => simp [Memory.wf]
  | cons d m => simp [Memory.wf, and_comm]

theorem head?_memSet (m : Memory) (a : Nat) (b : Byte) (d : Host.Cell)
    (h : d ∈ (memSet m a b).head?) : d.1 = a ∨ d ∈ m.head? := by
  cases m with
  | nil => simp [memSet] at h; simp [← h]
  | cons c m =>
    obtain ⟨k, v⟩ := c
    simp only [memSet] at h
    split at h
    · simp at h; simp [← h]
    · split at h
      · simp at h; simp [← h]
      · simp at h; simp [h]

/-- Storing a byte keeps the canonical form. -/
theorem memSet_wf (m : Memory) (a : Nat) (b : Byte) (h : Memory.wf m = true) :
    Memory.wf (memSet m a b) = true := by
  induction m with
  | nil => rfl
  | cons c m ih =>
    obtain ⟨k, v⟩ := c
    simp only [memSet]
    split
    · next hk => exact Memory.wf_cons.2 ⟨h, by simpa using hk⟩
    · split
      · next hk =>
        subst hk
        exact Memory.wf_cons.2 ⟨Memory.wf_tail h, (Memory.wf_cons.1 h).2⟩
      · next h1 h2 =>
        refine Memory.wf_cons.2 ⟨ih (Memory.wf_tail h), fun d hd => ?_⟩
        rcases head?_memSet m a b d hd with hd | hd
        · simp only; omega
        · exact (Memory.wf_cons.1 h).2 d hd

/-! ### Several bytes -/

/-- Writing `n` bytes keeps the canonical form. -/
theorem memWrite_wf (n : Nat) : ∀ (m : Memory) (a v : Nat), Memory.wf m = true →
    Memory.wf (memWrite m a n v) = true := by
  induction n with
  | zero => intro m a v h; exact h
  | succ n ih => intro m a v h; exact ih _ _ _ (memSet_wf m a _ h)

/-- Byte `j` of a written range is byte `j` of the number written; every other byte is as before. -/
theorem memByte?_memWrite (n : Nat) : ∀ (m : Memory) (a v x : Nat),
    memByte? (memWrite m a n v) x =
      if a ≤ x ∧ x < a + n then some (BitVec.ofNat 8 (v / 256 ^ (x - a))) else memByte? m x := by
  induction n with
  | zero => intro m a v x; simp [memWrite]
  | succ n ih =>
    intro m a v x
    rw [memWrite, ih, memByte?_memSet]
    by_cases h : a + 1 ≤ x ∧ x < a + 1 + n
    · have h' : a ≤ x ∧ x < a + (n + 1) := by omega
      have hx : x - a = (x - (a + 1)) + 1 := by omega
      rw [if_pos h, if_pos h', hx, Nat.div_div_eq_div_mul, Nat.pow_succ, Nat.mul_comm]
    · rw [if_neg h]
      by_cases hx : x = a
      · subst hx; simp
      · have h' : ¬(a ≤ x ∧ x < a + (n + 1)) := by omega
        rw [if_neg hx, if_neg h']

theorem memByte?_memWrite_outside {n : Nat} {m : Memory} {a v x : Nat} (h : x < a ∨ a + n ≤ x) :
    memByte? (memWrite m a n v) x = memByte? m x := by
  rw [memByte?_memWrite, if_neg (by omega)]

/-- A read depends on the bytes read only. -/
theorem memRead?_congr (n : Nat) : ∀ (m m' : Memory) (a : Nat),
    (∀ x, a ≤ x → x < a + n → memByte? m x = memByte? m' x) →
      memRead? m a n = memRead? m' a n := by
  induction n with
  | zero => intro m m' a _; rfl
  | succ n ih =>
    intro m m' a h
    simp only [memRead?, h a (by omega) (by omega), ih m m' (a + 1) fun x h1 h2 => h x (by omega) (by omega)]

/-- Reading what was written gives the low bytes of the number written (20_memory.md R67). -/
theorem memRead?_memWrite (n : Nat) : ∀ (m : Memory) (a v : Nat),
    memRead? (memWrite m a n v) a n = some (v % 256 ^ n) := by
  induction n with
  | zero => intro m a v; simp [memRead?, Nat.mod_one]
  | succ n ih =>
    intro m a v
    have h0 : memByte? (memWrite m a (n + 1) v) a = some (BitVec.ofNat 8 v) := by
      rw [memByte?_memWrite, if_pos (by omega)]; simp
    have h1 : memRead? (memWrite m a (n + 1) v) (a + 1) n = some (v / 256 % 256 ^ n) := ih _ _ _
    simp only [memRead?, h0, h1, BitVec.toNat_ofNat]
    rw [show 256 ^ (n + 1) = 256 * 256 ^ n from Nat.pow_succ', Nat.mod_mul]

theorem memRead?_memWrite_disjoint {n k : Nat} {m : Memory} {a b v : Nat}
    (h : b + k ≤ a ∨ a + n ≤ b) : memRead? (memWrite m a n v) b k = memRead? m b k :=
  memRead?_congr _ _ _ _ fun _ _ _ => memByte?_memWrite_outside (by omega)

/-- A stored number needs every byte of its range stored. -/
theorem memRead?_isSome (n : Nat) : ∀ (m : Memory) (a : Nat),
    (memRead? m a n).isSome = true ↔ ∀ j < n, (memByte? m (a + j)).isSome = true := by
  induction n with
  | zero => intro m a; simp [memRead?]
  | succ n ih =>
    intro m a
    have hs : (memRead? m a (n + 1)).isSome =
        ((memByte? m a).isSome && (memRead? m (a + 1) n).isSome) := by
      simp only [memRead?]
      cases memByte? m a <;> cases memRead? m (a + 1) n <;> rfl
    rw [hs, Bool.and_eq_true, ih]
    constructor
    · rintro ⟨h0, h1⟩ j hj
      cases j with
      | zero => exact h0
      | succ j => have := h1 j (by omega); rwa [show a + 1 + j = a + (j + 1) by omega] at this
    · intro h
      refine ⟨h 0 (by omega), fun j hj => ?_⟩
      have := h (j + 1) (by omega)
      rwa [show a + (j + 1) = a + 1 + j by omega] at this

/-! ### The three buffers -/

@[simp] theorem phaseWord?_phaseWrite_same (i : Nat) (w : Word64) (s : State) :
    phaseWord? (phaseWrite i w s).mem i = some w := by
  simp only [phaseWrite_mem, phaseWord?, memRead?_memWrite, Option.map_some, Option.some.injEq]
  apply BitVec.eq_of_toNat_eq
  simp only [BitVec.toNat_ofNat]
  have := w.isLt
  omega

theorem phaseWord?_phaseWrite_other {i j : Nat} (w : Word64) (s : State) (h : j ≠ i) :
    phaseWord? (phaseWrite i w s).mem j = phaseWord? s.mem j := by
  simp only [phaseWrite_mem, phaseWord?]
  rw [memRead?_memWrite_disjoint]
  unfold phaseAddr
  omega

@[simp] theorem codeWord?_codeWrite_same (i : Nat) (c : Word) (s : State) :
    codeWord? (codeWrite i c s).mem i = some c := by
  simp only [codeWrite_mem, codeWord?, memRead?_memWrite, Option.map_some, Option.some.injEq]
  apply BitVec.eq_of_toNat_eq
  simp only [BitVec.toNat_ofNat]
  have := c.isLt
  omega

theorem codeWord?_codeWrite_other {i j : Nat} (c : Word) (s : State) (h : j ≠ i) :
    codeWord? (codeWrite i c s).mem j = codeWord? s.mem j := by
  simp only [codeWrite_mem, codeWord?]
  rw [memRead?_memWrite_disjoint]
  unfold codeAddr
  omega

@[simp] theorem packByte?_packWrite_same (k : Nat) (b : Byte) (s : State) :
    packByte? (packWrite k b s).mem k = some b := by
  simp [packByte?]

theorem packByte?_packWrite_other {k j : Nat} (b : Byte) (s : State) (h : j ≠ k) :
    packByte? (packWrite k b s).mem j = packByte? s.mem j := by
  simp only [packWrite_mem, packByte?]
  exact memByte?_memSet_other _ _ (by unfold packAddr; omega)

end Sys2Proof.Machine
end

