-- ==== Sys2Proof/Laws/Ops.lean ====
section
/-! SUPPORT. What each shared operation can do: the free draws, the reads and writes of a range, the element
scan, the checks before it, the moves of the agents, the Host's variables and sequences, and a PACK read byte
by byte. -/

namespace Sys2Proof.Machine

/-! ### Reads change only the count of free values -/

/-- `t` is `s` but for the count of free values. -/
def drawsOnly (s t : State) : Prop := ∃ d, t = { s with draws := d }

theorem drawsOnly_refl (s : State) : drawsOnly s s := ⟨s.draws, rfl⟩

theorem drawsOnly_trans {s t u : State} : drawsOnly s t → drawsOnly t u → drawsOnly s u := by
  rintro ⟨d, rfl⟩ ⟨e, rfl⟩
  exact ⟨e, rfl⟩

theorem drawsOnly_drewOne (s : State) : drawsOnly s s.drewOne := ⟨_, rfl⟩

theorem phaseRead_drawsOnly (i : Nat) (s : State) : drawsOnly s (phaseRead i s).2 := by
  unfold phaseRead
  split
  · exact drawsOnly_refl s
  · exact drawsOnly_drewOne s

theorem codeRead_drawsOnly (i : Nat) (s : State) : drawsOnly s (codeRead i s).2 := by
  unfold codeRead
  split
  · exact drawsOnly_refl s
  · exact drawsOnly_drewOne s

theorem packRead_drawsOnly (k : Nat) (s : State) : drawsOnly s (packRead k s).2 := by
  unfold packRead
  split
  · exact drawsOnly_refl s
  · exact drawsOnly_drewOne s

theorem readFrom_drawsOnly {α : Type} {rd : Nat → State → α × State}
    (h : ∀ i s, drawsOnly s (rd i s).2) (n : Nat) :
    ∀ i s, drawsOnly s (readFrom rd i n s).2 := by
  induction n with
  | zero => intro i s; exact drawsOnly_refl s
  | succ n ih => intro i s; exact drawsOnly_trans (h i s) (ih _ _)

/-- Where every word of the range is stored, a scan reads exactly the stored words and draws nothing. -/
theorem readFrom_stored {α : Type} {rd : Nat → State → α × State} {s : State} (f : Nat → α) (n : Nat) :
    ∀ i, (∀ j, i ≤ j → j < i + n → rd j s = (f j, s)) →
      readFrom rd i n s = ((List.range' i n).map f, s) := by
  induction n with
  | zero => intro i _; rfl
  | succ n ih =>
    intro i h
    have h0 := h i (by omega) (by omega)
    have h1 := ih (i + 1) fun j h1 h2 => h j (by omega) (by omega)
    simp only [readFrom, h0, h1, List.range'_succ, List.map_cons]

theorem phaseRead_stored {i : Nat} {s : State} {w : Word64} (h : phaseWord? s.mem i = some w) :
    phaseRead i s = (w, s) := by simp [phaseRead, h]

theorem codeRead_stored {i : Nat} {s : State} {c : Word} (h : codeWord? s.mem i = some c) :
    codeRead i s = (c, s) := by simp [codeRead, h]

theorem packRead_stored {k : Nat} {s : State} {b : Byte} (h : packByte? s.mem k = some b) :
    packRead k s = (b, s) := by simp [packRead, h]

theorem length_readFrom {α : Type} (rd : Nat → State → α × State) (n : Nat) :
    ∀ i s, (readFrom rd i n s).1.length = n := by
  induction n with
  | zero => intro i s; rfl
  | succ n ih => intro i s; simp [readFrom, ih]

/-! ### Loops over a range -/

/-- What every pass of a loop keeps, the loop keeps. -/
theorem forRange_induction {P : State → Prop} {f : Nat → State → State} (n : Nat) {s : State}
    (h : ∀ i, i < n → ∀ t, P t → P (f i t)) (h0 : P s) : P (forRange n f s) := by
  induction n with
  | zero => exact h0
  | succ n ih => exact h n (by omega) _ (ih fun i hi => h i (by omega))

/-- A loop that writes word `i` in pass `i`, each pass leaving the other words alone, leaves in every word
of the range what its own pass wrote. `get` is the model's read of one word. -/
theorem forRange_get {α : Type} {get : State → Nat → Option α} {f : Nat → State → State} {v : Nat → α}
    (hs : ∀ i t, get (f i t) i = some (v i)) (ho : ∀ i j t, j ≠ i → get (f i t) j = get t j)
    (n : Nat) (s : State) (j : Nat) :
    get (forRange n f s) j = if j < n then some (v j) else get s j := by
  induction n with
  | zero => rfl
  | succ n ih =>
    simp only [forRange]
    by_cases hj : j = n
    · subst hj; simp [hs]
    · rw [ho _ _ _ hj, ih]
      by_cases h : j < n
      · rw [if_pos h, if_pos (by omega)]
      · rw [if_neg h, if_neg (by omega)]

/-- A field no pass changes. -/
theorem forRange_field {α : Type} (g : State → α) {f : Nat → State → State}
    (h : ∀ i t, g (f i t) = g t) (n : Nat) (s : State) : g (forRange n f s) = g s :=
  forRange_induction (P := fun t => g t = g s) n (fun i _ t ht => (h i t).trans ht) rfl

/-! ### The element scan (60_exceptions.md R183, R184) -/

/-- The scan succeeds exactly when every element does. -/
theorem checkEach_ok {α β ε : Type} {f : α → Except ε β} :
    ∀ {i : Nat} {as : List α} {bs : List β},
      checkEach f i as = .ok bs ↔ List.Forall₂ (fun a b => f a = .ok b) as bs := by
  intro i as
  induction as generalizing i with
  | nil => intro bs; cases bs <;> simp [checkEach]
  | cons a as ih =>
    intro bs
    simp only [checkEach]
    cases ha : f a with
    | error e =>
      simp only [reduceCtorEq, false_iff]
      intro h
      cases h with
      | cons h1 _ => simp [ha] at h1
    | ok b =>
      cases hr : checkEach f (i + 1) as with
      | error e =>
        simp only [reduceCtorEq, false_iff]
        intro h
        cases h with
        | cons _ h2 => simp [ih.2 h2] at hr
      | ok bs' =>
        constructor
        · intro h
          simp only [Except.ok.injEq] at h
          subst h
          exact .cons ha (ih.1 hr)
        · intro h
          cases h with
          | cons h1 h2 =>
            rw [ha] at h1
            cases h1
            rw [ih.2 h2] at hr
            cases hr
            rfl

/-- The scan fails with the lowest failing index: every element before it passes. -/
theorem checkEach_error {α β ε : Type} {f : α → Except ε β} :
    ∀ {i : Nat} {as : List α} {e : Nat × ε},
      checkEach f i as = .error e ↔
        ∃ pre a post, as = pre ++ a :: post ∧ (∀ x ∈ pre, ∃ b, f x = .ok b) ∧
          f a = .error e.2 ∧ e.1 = i + pre.length := by
  intro i as
  induction as generalizing i with
  | nil => intro e; simp [checkEach]
  | cons a as ih =>
    intro e
    simp only [checkEach]
    cases ha : f a with
    | error e' =>
      constructor
      · intro h
        cases h
        exact ⟨[], a, as, rfl, by simp, ha, by simp⟩
      · rintro ⟨pre, x, post, h, hpre, hx, hi⟩
        cases pre with
        | nil => simp only [List.nil_append, List.cons.injEq] at h
                 rw [← h.1, ha] at hx
                 cases hx
                 simp at hi
                 simp [← hi]
        | cons p pre => simp only [List.cons_append, List.cons.injEq] at h
                        obtain ⟨b, hb⟩ := hpre p (by simp)
                        rw [← h.1, ha] at hb
                        cases hb
    | ok b =>
      have key : (∃ pre x post, a :: as = pre ++ x :: post ∧ (∀ y ∈ pre, ∃ b, f y = .ok b) ∧
          f x = .error e.2 ∧ e.1 = i + pre.length) ↔
          checkEach f (i + 1) as = .error e := by
        rw [ih]
        constructor
        · rintro ⟨pre, x, post, h, hpre, hx, hi⟩
          cases pre with
          | nil => simp only [List.nil_append, List.cons.injEq] at h
                   rw [← h.1, ha] at hx
                   cases hx
          | cons p pre => simp only [List.cons_append, List.cons.injEq] at h
                          exact ⟨pre, x, post, h.2, fun y hy => hpre y (by simp [hy]), hx,
                            by rw [hi, List.length_cons]; omega⟩
        · rintro ⟨pre, x, post, h, hpre, hx, hi⟩
          refine ⟨a :: pre, x, post, by rw [h]; rfl, ?_, hx, by rw [hi, List.length_cons]; omega⟩
          intro y hy
          rcases List.mem_cons.1 hy with rfl | hy
          · exact ⟨b, ha⟩
          · exact hpre y hy
      rw [key]
      cases checkEach f (i + 1) as <;> simp

/-! ### The checks of a command -/

/-- Everything the profile gate can do (R107). -/
theorem profileGate_cases (s : State) (k : State → State) :
    (s.profileValid = true ∧ profileGate s k = k s) ∨
      (s.profileValid = false ∧ profileGate s k = raiseError .invalidProfile 7 0 0 s) := by
  unfold profileGate
  cases s.profileValid <;> simp

/-- Everything the shape check can do (R183 step 3). -/
theorem shapeCheck_cases (s : State) (k : State → State) :
    (s.snap.srcRes = s.act.res ∧ shapeCheck s k = k s) ∨
      (s.snap.srcRes ≠ s.act.res ∧
        shapeCheck s k = raiseError .shapeMismatch 0 (zext64 s.act.res) (zext64 s.snap.srcRes) s) := by
  unfold shapeCheck
  by_cases h : s.snap.srcRes = s.act.res <;> simp [h]

/-- Everything the length check can do (R183 step 3). -/
theorem lengthCheck_cases (s : State) (k : State → State) :
    (s.snap.srcLen = s.packLen ∧ lengthCheck s k = k s) ∨
      (s.snap.srcLen ≠ s.packLen ∧ lengthCheck s k =
        raiseError .bufferLengthMismatch 0 (zext64 s.packLen) (zext64 s.snap.srcLen) s) := by
  unfold lengthCheck
  by_cases h : s.snap.srcLen = s.packLen <;> simp [h]

/-- Everything the end of an element scan can do (R183 step 4, R185). -/
theorem finishElements_cases {β : Type} (k : ErrKind) (r : Except (Nat × (Word64 × Word64)) (List β))
    (scramble : State → State) (write : List β → State → State) (s : State) :
    (∃ e, r = .error e ∧
        finishElements k r scramble write s = raiseError k e.1 e.2.1 e.2.2 (scramble s)) ∨
      (∃ bs, r = .ok bs ∧ finishElements k r scramble write s = completeOk (write bs s)) := by
  unfold finishElements
  cases r with
  | error e => exact .inl ⟨e, rfl, rfl⟩
  | ok bs => exact .inr ⟨bs, rfl, rfl⟩

/-! ### The moves -/

/-- Everything a step can do: one turn's move, or with no turn left the Engine's while a command runs, else
the Host's. -/
theorem step_cases (s : State) :
    (∃ t ts, s.turns = t :: ts ∧ step s = moveOf t { s with turns := ts }) ∨
      (s.turns = [] ∧ s.busy = true ∧ step s = engineMove s) ∨
      (s.turns = [] ∧ s.busy = false ∧ step s = hostMove s) := by
  unfold step nextMove
  cases s.turns with
  | cons t ts => exact .inl ⟨t, ts, rfl, rfl⟩
  | nil => cases h : s.busy <;> simp

/-- Everything the Engine's move can do. -/
theorem engineMove_cases (s : State) :
    (s.engine = .idle ∧ engineMove s = .next s) ∨
      (∃ i snap, s.engine = .running (.command i) snap ∧ engineMove s = exec i s) ∨
      (∃ snap, s.engine = .running .illegal snap ∧ engineMove s = .next (illegalCommand s)) := by
  unfold engineMove
  split
  · next h => exact .inl ⟨h, rfl⟩
  · next i snap h => exact .inr (.inl ⟨i, snap, h, rfl⟩)
  · next snap h => exact .inr (.inr ⟨snap, h, rfl⟩)

/-- A host read that is answered changes only the count of free values (20_memory.md R70). -/
theorem readTarget_drawsOnly (t : BusTarget) (s : State) : drawsOnly s (readTarget t s).2 := by
  have lanes : ∀ n k u, drawsOnly u (hostPackLanes k n u).2 := by
    intro n
    induction n with
    | zero => intro k u; exact drawsOnly_refl u
    | succ n ih =>
      intro k u
      refine drawsOnly_trans ?_ (ih _ _)
      unfold hostPackByte
      split
      · exact drawsOnly_drewOne u
      · exact packRead_drawsOnly k u
  cases t with
  | reg r => exact drawsOnly_refl s
  | phase i high =>
    simp only [readTarget]
    split
    · exact drawsOnly_drewOne s
    · exact phaseRead_drawsOnly i s
  | code i =>
    simp only [readTarget]
    split
    · exact drawsOnly_drewOne s
    · exact codeRead_drawsOnly i s
  | pack k n => exact lanes n k s

/-- An answered read is the read of an accepted target. -/
theorem busRead_ok {w : Width} {addr : Word} {s : State} {r : Word × State} :
    busRead w addr s = .ok r ↔ ∃ t, busTarget s.caps w addr = some t ∧ readTarget t s = r := by
  unfold busRead
  cases busTarget s.caps w addr <;> simp

/-- An answered write is a write of an accepted target that does not race. -/
theorem busWrite_ok {w : Width} {addr v : Word} {s t : State} :
    busWrite w addr v s = .ok t ↔
      ∃ tg, busTarget s.caps w addr = some tg ∧ targetRaces s tg = false ∧ writeTarget tg v s = t := by
  unfold busWrite
  cases busTarget s.caps w addr with
  | none => simp
  | some tg => cases h : targetRaces s tg <;> simp [h]

/-- Everything a Host move can do when it answers a next state: nothing, an answered write or read followed
by the Host's own bookkeeping, a poll, or a jump. -/
theorem hostMove_next {s t : State} (h : hostMove s = .next t) :
    t = s ∨
      (∃ w addr v u, busWrite w addr v s = .ok u ∧ t = hostNext u) ∨
      (∃ w addr r x, busRead w addr s = .ok r ∧ t = hostNext (hostBind x r.1 r.2)) ∨
      (∃ addr r, busRead .w32 addr s = .ok r ∧ (t = hostNext r.2 ∨ t = r.2)) ∨
      (∃ n, t = hostGoto n s) := by
  unfold hostMove at h
  split at h
  · cases h; exact .inl rfl
  · next l _ =>
    cases l with
    | write w addr v =>
      simp only [hostLine] at h
      split at h
      · next u hu => cases h; exact .inr (.inl ⟨w, addr, _, u, hu, rfl⟩)
      · cases h
    | read w addr x =>
      simp only [hostLine] at h
      split at h
      · next r hr => cases h; exact .inr (.inr (.inl ⟨w, addr, r, x, hr, rfl⟩))
      · cases h
    | poll addr hi lo v =>
      simp only [hostLine] at h
      split at h
      · next r hr =>
        cases h
        refine .inr (.inr (.inr (.inl ⟨addr, r, hr, ?_⟩)))
        split
        · exact .inl rfl
        · exact .inr rfl
      · cases h
    | ifGoto c n =>
      simp only [hostLine] at h
      cases h
      refine .inr (.inr (.inr (.inr ?_)))
      split
      · exact ⟨n, rfl⟩
      · exact ⟨s.host.pc + 1, rfl⟩

/-! ### The Host's variables and sequences -/

theorem hostVar_setHostVar_self (vars : List Word) (x : Nat) (v : Word) :
    hostVar (setHostVar vars x v) x = v := by
  unfold hostVar
  fun_induction setHostVar vars x v <;> simp_all

theorem hostVar_setHostVar_of_ne (vars : List Word) {x y : Nat} (v : Word) (h : y ≠ x) :
    hostVar (setHostVar vars x v) y = hostVar vars y := by
  unfold hostVar
  fun_induction setHostVar vars x v generalizing y <;> cases y <;> simp_all

@[simp] theorem length_hostRunBoth (i j : Instr) (st stop : Nat) :
    (hostRunBoth i j st stop).length = 8 := rfl

/-- The line an error goes to is the one after the sequence. -/
theorem hostSequence_stop (base : Nat) (setup : List HostLine) (i j : Instr) (st : Nat)
    (reads : List HostLine) : hostSequence base setup i j st reads =
      setup ++ hostRunBoth i j st (base + (hostSequence base setup i j st reads).length) ++ reads := by
  simp [hostSequence, Nat.add_assoc]

/-! ### The PACK window, byte by byte -/

/-- Byte `k` of PACK_MEM reads as a free value to the Host (R216, R43). -/
def packFree (s : State) (k : Nat) : Bool := s.engineWrites .pack k || (packByte? s.mem k).isNone

/-- How many of the `n` bytes from `k` read as a free value. -/
def packDraws (s : State) (k n : Nat) : Nat := (List.range n).countP fun i => packFree s (k + i)

theorem packDraws_succ (s : State) (k n : Nat) :
    packDraws s k (n + 1) = (if packFree s k then 1 else 0) + packDraws s (k + 1) n := by
  simp [packDraws, List.range_succ_eq_map, List.countP_cons, List.countP_map, Function.comp_def,
    Nat.add_comm, Nat.add_left_comm]

theorem hostPackByte_eq (k d : Nat) (s : State) : hostPackByte k { s with draws := d } =
    (if packFree s k then (Config.freeValue d).setWidth 8 else (packByte? s.mem k).getD 0,
      { s with draws := d + if packFree s k then 1 else 0 }) := by
  have he : ({ s with draws := d } : State).engineWrites .pack k = s.engineWrites .pack k := rfl
  unfold hostPackByte packRead
  rw [he]
  by_cases h : s.engineWrites .pack k
  · simp [packFree, h, State.drawn, State.drewOne]
  · cases h2 : packByte? s.mem k <;> simp [packFree, h, h2, State.drawn, State.drewOne]

/-- A read of `n` bytes draws once for each free one, in order, and each lane holds its byte. -/
theorem hostPackLanes_eq (s : State) (n : Nat) : ∀ k d,
    (hostPackLanes k n { s with draws := d }).2 = { s with draws := d + packDraws s k n } ∧
    ∀ m, m < n → (hostPackLanes k n { s with draws := d }).1 / 256 ^ m % 256 =
      if packFree s (k + m) then ((Config.freeValue (d + packDraws s k m)).setWidth 8 : Byte).toNat
      else ((packByte? s.mem (k + m)).getD 0).toNat := by
  induction n with
  | zero => intro k d; simp [hostPackLanes, packDraws]
  | succ n ih =>
    intro k d
    obtain ⟨ih1, ih2⟩ := ih (k + 1) (d + if packFree s k then 1 else 0)
    simp only [hostPackLanes, hostPackByte_eq]
    refine ⟨by rw [ih1, packDraws_succ, Nat.add_assoc], fun m hm => ?_⟩
    have hb : (if packFree s k then (Config.freeValue d).setWidth 8
        else (packByte? s.mem k).getD 0 : Byte).toNat < 256 := BitVec.isLt _
    cases m with
    | zero =>
      rw [Nat.pow_zero, Nat.div_one, Nat.add_mul_mod_self_left, Nat.mod_eq_of_lt hb]
      simp only [packDraws, List.range_zero, List.countP_nil, Nat.add_zero]
      split <;> rfl
    | succ m =>
      have := ih2 m (by omega)
      rw [show k + (m + 1) = k + 1 + m by omega, packDraws_succ, ← Nat.add_assoc, ← this, pow_succ',
        ← Nat.div_div_eq_div_mul]
      congr 2
      omega

end Sys2Proof.Machine
end

