-- ==== Sys2Proof/Laws/PerInstr.lean ====
section
/-! SUPPORT. Per-command facts about the syntax: the family `Word`, that every command's word is a legal CMD
word with the opcode R81 gives it. -/

namespace Sys2Proof.Laws.Word

/-- The word of a command is legal (30_encoding.md R80, R82) and the command well-formed (R84). -/
def Statement (i : Instr) : Prop :=
  instrWellFormed i = true ∧ cmdWellFormed (encode i) = true ∧ cmdOpcode (encode i) = instrOpcode i

theorem validate : Statement .validate := by unfold Statement; decide

theorem quantize : Statement .quantize := by unfold Statement; decide

theorem dequantize : Statement .dequantize := by unfold Statement; decide

theorem pack : Statement .pack := by unfold Statement; decide

theorem unpack : Statement .unpack := by unfold Statement; decide

end Sys2Proof.Laws.Word
end

