-- ==== Sys2Proof/Tests/Slice0.lean ====
section
/-! SUPPORT. Tests on small states: the decoder against words written out from the spec, the well-formedness
checks, one step per command against 95_test_vectors.md, and a witness for the hypotheses of every
statement that has some. -/

namespace Sys2Proof.Tests

open Sys2Proof Sys2Proof.Machine

-- The kernel evaluations below run one after the other: elaborated all at once they hold a thread each.
set_option Elab.async false

/-! ### Decoding (30_encoding.md R80 to R82), the words written bit by bit: RSVD then OPCODE -/

theorem test_decode_validate : decode 0b0000000000000000000000000000_0001#32 = .ok .validate := by
  decide

theorem test_decode_quantize : decode 0b0000000000000000000000000000_0010#32 = .ok .quantize := by
  decide

theorem test_decode_dequantize : decode 0b0000000000000000000000000000_0011#32 = .ok .dequantize := by
  decide

theorem test_decode_pack : decode 0b0000000000000000000000000000_0100#32 = .ok .pack := by decide

theorem test_decode_unpack : decode 0b0000000000000000000000000000_0101#32 = .ok .unpack := by decide

/-- V-CMD-1 to V-CMD-4. -/
theorem test_decode_illegal :
    decode 0x00000000#32 = .error .unusedOpcode ∧ decode 0x00000006#32 = .error .unusedOpcode ∧
      decode 0x0000000F#32 = .error .unusedOpcode ∧ decode 0x00000011#32 = .error .reservedBits ∧
      decode 0xFFFFFFFF#32 = .error .reservedBits := by decide

theorem test_decodeTableWord :
    decodeTableWord 32 4 = some .pack ∧ decodeTableWord 32 6 = none := by decide

/-! ### Well-formedness: an ill-formed term for each check -/

theorem test_wf_reserved : cmdReservedClear 0x00000011#32 = false := by decide

theorem test_wf_opcode : cmdOpcodeUsed 0#32 = false ∧ cmdOpcodeUsed 6#32 = false := by decide

theorem test_wf_command :
    cmdWellFormed 0x00000011#32 = false ∧ cmdWellFormed 6#32 = false ∧ cmdWellFormed 5#32 = true := by
  decide

theorem test_wf_caps_phase :
    capsPhaseOk ⟨0, 1, 4⟩ = false ∧ capsPhaseOk ⟨2 ^ 25 + 1, 1, 4⟩ = false := by decide

theorem test_wf_caps_code :
    capsCodeOk ⟨1, 0, 4⟩ = false ∧ capsCodeOk ⟨1, 2 ^ 26 + 1, 4⟩ = false := by decide

theorem test_wf_caps_pack :
    capsPackOk ⟨1, 1, 0⟩ = false ∧ capsPackOk ⟨1, 1, 2 ^ 28 + 4⟩ = false ∧
      capsPackOk ⟨1, 1, 6⟩ = false := by decide

theorem test_wf_memory :
    Memory.wf [(2, 0), (1, 0)] = false ∧ Memory.wf [(1, 0), (1, 0)] = false ∧
      Memory.wf [(1, 0), (2, 0)] = true := by decide

/-! ### Small states -/

/-- A small instance. -/
def caps : Config.Caps := ⟨8, 8, 16⟩

/-- A profile with the phase range `(0.0, 6.0)`. -/
def profile (n : BitVec 6) (w h : Nat) (mode : BitVec 7) : Profile :=
  ⟨n, resWord w h, mode, 0x0000000000000000, 0x4018000000000000⟩

/-- An instance with an active profile, the matching descriptors, and empty buffers. -/
def active (p : Profile) : State :=
  { latchProfile p (State.resetWith caps) with
    cfg := p, srcRes := p.res, srcLen := BitVec.ofNat 32 p.packedBytes }

/-- The state with a command started. -/
def started (i : Instr) (s : State) : State := startCommand (encode i) s

/-- PHASE_MEM filled from a list. -/
def withPhases (ws : List Word64) (s : State) : State := writePhases ws s

/-- CODE_MEM filled from a list. -/
def withCodes (cs : List Word) (s : State) : State := writeCodes cs s

/-- PACK_MEM filled from a list. -/
def withBytes (bs : List Byte) (s : State) : State :=
  forRange bs.length (fun k t => packWrite k (bs.getD k 0) t) s

/-- The next state of an outcome. -/
def nextOf (o : Host.Outcome State Fault Refusal) : Option State :=
  match o with
  | .next t => some t
  | .fault _ => none
  | .refused _ => none

/-- STATUS, ERR_INDEX, ERR_EXP, ERR_ACT after a command. -/
def context (o : Host.Outcome State Fault Refusal) : Option (Nat × Nat × Nat × Nat) :=
  (nextOf o).map fun t => ((statusWord t).toNat, t.errIndex.toNat, t.errExp.toNat, t.errAct.toNat)

/-- The first `n` CODE_MEM words after a command. -/
def codesOf (n : Nat) (o : Host.Outcome State Fault Refusal) : Option (List (Option Word)) :=
  (nextOf o).map fun t => (List.range n).map (codeWord? t.mem)

/-- The first `n` PACK_MEM bytes after a command. -/
def bytesOf (n : Nat) (o : Host.Outcome State Fault Refusal) : Option (List (Option Byte)) :=
  (nextOf o).map fun t => (List.range n).map (packByte? t.mem)

/-- The first `n` PHASE_MEM words after a command. -/
def phasesOf (n : Nat) (o : Host.Outcome State Fault Refusal) : Option (List (Option Word64)) :=
  (nextOf o).map fun t => (List.range n).map (phaseWord? t.mem)

/-! ### One step per command (95_test_vectors.md) -/

/-- V-VAL-2 with the suggested sizing: PACK_LEN = `ceil(45/8)` = 6, STATUS 0x12. -/
theorem test_validate_latches :
    ((nextOf (step (started .validate { State.reset with
      cfg := ⟨3, 0x00030005, 0, 0, 0x3FF0000000000000⟩ }))).map fun t =>
        (t.packLen, statusWord t, t.act.res)) = some (6, 0x12, 0x00030005) := by decide +kernel

/-- V-VAL-11: the range from -0.0 to +0.0 fails with reason 3. -/
theorem test_validate_zero_range :
    context (step (started .validate { State.reset with
      cfg := ⟨1, 0x00010001, 0, 0x8000000000000000, 0⟩ })) =
        some (0x106, 3, 0, 0x8000000000000000) := by decide +kernel

/-- V-Q-51: CLAMP over four samples, with the tie 1.5 going to 2. -/
theorem test_quantize_clamp :
    codesOf 4 (step (started .quantize (withPhases
      [0, 0x4008000000000000, 0x401C000000000000, 0xBFF0000000000000] (active (profile 2 4 1 0))))) =
        some [some 0, some 2, some 3, some 0] := by decide +kernel

/-- V-Q-48: the ERROR policy reports the lowest bad index. -/
theorem test_quantize_error :
    context (step (started .quantize (withPhases
      [0, 0x4008000000000000, 0x401C000000000000, 0xBFF0000000000000]
      (active (profile 2 4 1 0x40))))) =
        some (0x216, 2, 0x4018000000000000, 0x401C000000000000) := by decide +kernel

/-- V-DQ-2: one third and two thirds, rounded once. -/
theorem test_dequantize_thirds :
    phasesOf 4 (step (started .dequantize (withCodes [0, 1, 2, 3]
      (active { profile 2 4 1 0 with pmax := 0x3FF0000000000000 })))) =
        some [some 0, some 0x3FD5555555555555, some 0x3FE5555555555555, some 0x3FF0000000000000] := by
  decide +kernel

/-- V-DQ-4: the code 0 of a range that starts at -0.0 gives +0.0. -/
theorem test_dequantize_negative_zero :
    phasesOf 1 (step (started .dequantize (withCodes [0, 1]
      (active { profile 1 2 1 0 with pmin := 0x8000000000000000 })))) = some [some 0] := by
  decide +kernel

/-- V-PK-45: ROW_FLIP of a 3 by 2 frame. -/
theorem test_pack_row_flip :
    bytesOf 4 (step (started .pack (withCodes [0, 1, 2, 3, 4, 5] (active (profile 4 3 2 0x08))))) =
      some [some 0x34, some 0x50, some 0x12, none] := by decide +kernel

/-- V-PK-49: the source index is reported, not the stream position. -/
theorem test_pack_out_of_range :
    context (step (started .pack (withCodes [0, 0, 9] (active (profile 2 3 1 0x10))))) =
      some (0x516, 2, 3, 9) := by decide +kernel

/-- V-UP-5: both flips are undone. -/
theorem test_unpack_flips :
    codesOf 4 (step (started .unpack (withBytes [0x43, 0x21] (active (profile 4 2 2 0x18))))) =
      some [some 1, some 2, some 3, some 4] := by decide +kernel

/-- V-UP-7: nonzero padding is ignored. -/
theorem test_unpack_padding :
    codesOf 3 (step (started .unpack (withBytes [0xAF, 0xFF] (active (profile 3 3 1 0))))) =
      some [some 5, some 3, some 7] := by decide +kernel

/-! ### Witnesses: for each statement with hypotheses, a state and operands that meet them -/

/-- The 2-bit, 4 by 1 profile with range `(0, 6)` of the vectors, under each policy and layout used below. -/
theorem profileInv_subbyte : ProfileInv caps (profile 2 4 1 0) := by
  constructor <;> decide +kernel

theorem profileInv_wrap : ProfileInv caps (profile 2 4 1 0x20) := by
  constructor <;> decide +kernel

theorem profileInv_error : ProfileInv caps (profile 2 4 1 0x40) := by
  constructor <;> decide +kernel

theorem profileInv_le : ProfileInv caps (profile 12 3 2 0x02) := by
  constructor <;> decide +kernel

theorem activeInv_of {p : Profile} (h : ProfileInv caps p) (hl : p.packedBytes < 2 ^ 32) {s : State}
    (h1 : s.caps = caps) (h2 : s.act = p) (h3 : s.packLen = BitVec.ofNat 32 p.packedBytes)
    (h4 : s.profileValid = true) : ActiveInv s where
  caps_legal := by rw [h1]; decide
  valid _ := by rw [h1, h2]; exact h
  valid_length _ := by rw [h2, h3, BitVec.toNat_ofNat, Nat.mod_eq_of_lt hl]
  invalid_profile h := by rw [h4] at h; cases h
  invalid_length h := by rw [h4] at h; cases h

theorem witness_StepRunsTheCommand :
    ∃ (s : State) (i : Instr) (snap : Snap), s.engine = .running (.command i) snap ∧ s.turns = [] ∧
      ∃ u : State, u.engine = .running (.command i) snap ∧ u.turns = [.engine] :=
  ⟨started .pack State.reset, .pack, State.reset.sample (encode .pack), by decide +kernel, rfl,
    { started .pack State.reset with turns := [.engine] }, by decide +kernel, rfl⟩

theorem witness_CmdWriteStarts :
    State.reset.engine = .idle ∧ decode 5#32 = .ok .unpack ∧ decode 0#32 = .error .unusedOpcode := by
  decide

theorem witness_CmdWriteWhileBusyDropped :
    ∃ op snap, (started .quantize State.reset).engine = .running op snap := ⟨_, _, rfl⟩

/-- A word for each way of being illegal, at the edges of the unused opcodes and of RSVD. -/
theorem witness_IllegalWordCompletes :
    State.reset.engine = .idle ∧ cmdOpcode 0x00000010#32 = 0#4 ∧ 6 ≤ (cmdOpcode 0x00000006#32).toNat ∧
      6 ≤ (cmdOpcode 0x0000000F#32).toNat ∧ cmdRsvd 0x00000015#32 ≠ 0#28 := by decide

/-- A staging profile VALIDATE accepts, PACKED_SUBBYTE at 8 bits, and one under LE_MULTIBYTE at 32 bits
that fills PACK_MEM. -/
theorem witness_ValidateLatches :
    (∃ (s : State) (p : Profile) (lo hi : ℚ) (l : Nat), p = s.snap.cfg ∧ 1 ≤ p.bits ∧ p.bits ≤ 32 ∧
      1 ≤ p.width ∧ 1 ≤ p.height ∧ val p.pmin = .num lo ∧ val p.pmax = .num hi ∧ lo < hi ∧
      p.layout ≠ .reserved ∧ p.policy ≠ .reserved ∧ p.layout = .packedSubbyte ∧ p.bits ≤ 8 ∧
      p.width * p.height ≤ s.caps.phaseEntries ∧ p.width * p.height ≤ s.caps.codeEntries ∧
      p.bits * (p.width * p.height) ≤ 8 * l ∧ 8 * l < p.bits * (p.width * p.height) + 8 ∧
      l ≤ s.caps.packBytes) ∧
    (∃ (s : State) (p : Profile) (lo hi : ℚ) (l b : Nat), p = s.snap.cfg ∧ 1 ≤ p.bits ∧ p.bits ≤ 32 ∧
      1 ≤ p.width ∧ 1 ≤ p.height ∧ val p.pmin = .num lo ∧ val p.pmax = .num hi ∧ lo < hi ∧
      p.layout ≠ .reserved ∧ p.policy ≠ .reserved ∧ p.layout ≠ .packedSubbyte ∧
      p.width * p.height ≤ s.caps.phaseEntries ∧ p.width * p.height ≤ s.caps.codeEntries ∧
      l = p.width * p.height * b ∧ p.bits ≤ 8 * b ∧ 8 * b < p.bits + 8 ∧ l ≤ s.caps.packBytes) :=
  ⟨⟨started .validate (active (profile 8 2 4 0)), profile 8 2 4 0, 0, 6, 8, by decide +kernel⟩,
    ⟨started .validate (active (profile 32 4 1 0x02)), profile 32 4 1 0x02, 0, 6, 16, 4,
      by decide +kernel⟩⟩

/-- A state that runs VALIDATE on a staging profile. -/
def validating (p : Profile) : State := started .validate { State.resetWith caps with cfg := p }

/-- The checks of VALIDATE in its order, as the statement names them, on one profile. -/
def checks (p : Profile) : List Bool :=
  [decide (1 ≤ p.bits ∧ p.bits ≤ 32), decide (p.width ≠ 0 ∧ p.height ≠ 0), !rangeInvalid p,
    decide (p.layout ≠ .reserved ∧ p.policy ≠ .reserved),
    decide (¬(p.layout = .packedSubbyte ∧ 8 < p.bits)),
    decide (p.pixels ≤ caps.phaseEntries ∧ p.pixels ≤ caps.codeEntries),
    decide (p.packedBytes ≤ caps.packBytes)]

/-- A profile for each clause, just past its bound: depth 0 and 33, width 0, equal bounds and an infinite
bound, both reserved encodings, depth 9 in PACKED_SUBBYTE, 9 pixels, and 18 packed bytes. -/
theorem witness_ValidateRefuses :
    (checks (profile 0 4 1 0)).head? = some false ∧ (checks (profile 33 4 1 2)).head? = some false ∧
    (checks (profile 2 0 1 0)).take 2 = [true, false] ∧
    (checks { profile 2 4 1 0 with pmax := 0 }).take 3 = [true, true, false] ∧
    (checks { profile 2 4 1 0 with pmax := 0x7FF0000000000000 }).take 3 = [true, true, false] ∧
    (checks (profile 2 4 1 0x06)).take 4 = [true, true, true, false] ∧
    (checks (profile 2 4 1 0x60)).take 4 = [true, true, true, false] ∧
    (checks (profile 9 1 1 0)).take 5 = [true, true, true, true, false] ∧
    (checks (profile 1 9 1 0)).take 6 = [true, true, true, true, true, false] ∧
    checks (profile 24 6 1 2) = [true, true, true, true, true, true, false] ∧
    (validating (profile 9 1 1 0)).snap.cfg = profile 9 1 1 0 := by decide +kernel

/-- The exact range condition of the statement, met and not met. -/
theorem witness_ValidateRefuses_range :
    (∃ lo hi, val (profile 2 4 1 0).pmin = .num lo ∧ val (profile 2 4 1 0).pmax = .num hi ∧ lo < hi) ∧
    ¬∃ lo hi, val 0x7FF0000000000000 = .num lo ∧ val 0 = .num hi ∧ lo < hi := by
  refine ⟨⟨0, 6, by decide +kernel⟩, ?_⟩
  rintro ⟨lo, hi, h, -⟩
  have h' : val 0x7FF0000000000000 = .posInf := by decide +kernel
  rw [h'] at h
  cases h

/-- CODE_MEM one word too small for a frame that PHASE_MEM holds. -/
theorem witness_ValidateRefuses_code :
    (profile 1 9 1 0).pixels ≤ (Config.Caps.mk 9 8 16).phaseEntries ∧
      (Config.Caps.mk 9 8 16).codeEntries < (profile 1 9 1 0).pixels := by decide +kernel

theorem witness_ValidateRepeats :
    (validating (profile 2 4 1 0)).snap.cfg = (validating (profile 2 4 1 0)).cfg ∧
      ∃ t, exec .validate (validating (profile 2 4 1 0)) = .next t := ⟨rfl, _, rfl⟩

theorem witness_ProfileGateStops :
    Instr.quantize ≠ .validate ∧ (started .quantize State.reset).profileValid = false := by decide

/-- Each clause: a shape with width and height exchanged, and a length one too large. -/
theorem witness_DescriptorMismatchStops :
    (active (profile 2 4 1 0)).profileValid = true ∧
    (started .quantize { active (profile 2 4 1 0) with srcRes := resWord 1 4 }).snap.srcRes ≠
      (profile 2 4 1 0).res ∧
    (started .unpack { active (profile 2 4 1 0) with srcLen := 2 }).snap.srcLen ≠
      (active (profile 2 4 1 0)).packLen := by decide +kernel

theorem witness_CommandsLeaveRegisters (i : Instr) : ∃ t, exec i (started i State.reset) = .next t := by
  cases i <;> exact ⟨_, rfl⟩

/-- Each error kind of the statement, on a command that raises it. -/
theorem witness_EarlyErrorsWriteNothing :
    ((nextOf (exec .pack (started .pack State.reset))).map (·.err)) = some .invalidProfile ∧
    ((nextOf (exec .pack (started .pack { active (profile 2 4 1 0) with srcRes := 0 }))).map (·.err)) =
      some .shapeMismatch ∧
    ((nextOf (exec .unpack (started .unpack { active (profile 2 4 1 0) with srcLen := 0 }))).map
      (·.err)) = some .bufferLengthMismatch := by decide +kernel

theorem witness_OperandsAreSampledAtStart :
    (∃ op snap, (started .pack State.reset).engine = .running op snap) ∧
      (0x00000008#32).getLsbD 1 = false ∧ ∃ t, exec .pack (started .pack State.reset) = .next t :=
  ⟨⟨_, _, rfl⟩, by decide, _, rfl⟩

/-- A tie of `rne`. -/
theorem witness_RneIsNearestEven :
    (3 : ℤ) ≠ rne (5 / 2) ∧ |(5 / 2 : ℚ) - (rne (5 / 2) : ℚ)| = |(5 / 2 : ℚ) - ((3 : ℤ) : ℚ)| := by
  have h : rne (5 / 2) = 2 := by decide +kernel
  rw [h]
  norm_num

/-- The tie between 1 and the next word, which goes to 1; the smallest subnormal as the other end. Of `val`:
the first subnormal and the first normal exponent, the last finite exponent, an infinity and a NaN. -/
theorem witness_Fl64IsNearestEven :
    val 0x0000000000000001 = .num (mkRat 1 (2 ^ 1074)) ∧ val 0x4000000000000000 = .num 2 ∧
      mkRat 1 (2 ^ 1074) ≤ 1 + mkRat 1 (2 ^ 53) ∧ 1 + mkRat 1 (2 ^ 53) ≤ 2 ∧
      val 0x3FF0000000000001 = .num (1 + mkRat 1 (2 ^ 52)) ∧
      fl64 (1 + mkRat 1 (2 ^ 53)) = 0x3FF0000000000000 ∧
      (0x0010000000000000#64).toNat / 2 ^ 52 % 2 ^ 11 = 1 ∧
      (0x7FEFFFFFFFFFFFFF#64).toNat / 2 ^ 52 % 2 ^ 11 = 0x7FE ∧
      (0x7FF0000000000000#64).toNat / 2 ^ 52 % 2 ^ 11 = 0x7FF ∧
      (0x7FF0000000000000#64).toNat % 2 ^ 52 = 0 ∧ (0x7FF8000000000000#64).toNat % 2 ^ 52 ≠ 0 := by
  decide +kernel

/-- Each kind of sample under each policy: in range, above, below, infinite and NaN. -/
theorem witness_QmapByPolicy :
    (profile 2 4 1 0).lo < (profile 2 4 1 0).hi ∧ (profile 2 4 1 0).policy = .clamp ∧
    (profile 2 4 1 0x20).policy = .wrap ∧ (profile 2 4 1 0x40).policy = .error ∧
    val 0x7FF8000000000000 = .nan ∧ val 0x7FF0000000000000 = .posInf ∧
    val 0xFFF0000000000000 = .negInf ∧ val 0x4018000000000000 = .num 6 ∧
    val 0x401C000000000000 = .num 7 ∧ val 0xBFF0000000000000 = .num (-1) ∧
    (profile 2 4 1 0x40).hi = 6 ∧ (profile 2 4 1 0x40).lo = 0 := by decide +kernel

theorem witness_WrapReducesByPeriods :
    (profile 2 4 1 0x20).lo < (profile 2 4 1 0x20).hi ∧ (profile 2 4 1 0x20).policy = .wrap ∧
      val 0xBFF0000000000000 = .num (-1) ∧
      val 0x4018000000000000 = .num (profile 2 4 1 0x20).hi := by decide +kernel

/-- The bounds themselves, a sample beyond each, and a sample one period above `lo` (at `hi`). -/
theorem witness_QmapAtTheBounds :
    ProfileInv caps (profile 2 4 1 0) ∧ ProfileInv caps (profile 2 4 1 0x40) ∧
    ProfileInv caps (profile 2 4 1 0x20) ∧ val 0x8000000000000000 = .num (profile 2 4 1 0).lo ∧
    val 0xBFF0000000000000 = .num (-1) ∧ (-1 : ℚ) ≤ (profile 2 4 1 0).lo ∧
    val 0x4018000000000000 = .num (profile 2 4 1 0x40).hi ∧
    (profile 2 4 1 0x20).lo + ((1 : ℤ) : ℚ) * ((profile 2 4 1 0x20).hi - (profile 2 4 1 0x20).lo) =
      (profile 2 4 1 0x20).hi :=
  ⟨profileInv_subbyte, profileInv_error, profileInv_wrap, by decide +kernel, by decide +kernel,
    by decide +kernel, by decide +kernel, by push_cast; ring⟩

theorem witness_QmapCodesInRange :
    ProfileInv caps (profile 2 4 1 0) ∧ qmap (profile 2 4 1 0) 0x4018000000000000 = .code 3 :=
  ⟨profileInv_subbyte, by decide +kernel⟩

/-- A tie (3.0) for CLAMP and ERROR, and a sample below the range for WRAP. -/
theorem witness_RoundTripWithinHalfStep :
    ProfileInv caps (profile 2 4 1 0) ∧ ProfileInv caps (profile 2 4 1 0x40) ∧
    ProfileInv caps (profile 2 4 1 0x20) ∧ val 0x4008000000000000 = .num 3 ∧
    (profile 2 4 1 0x40).lo ≤ 3 ∧ 3 ≤ (profile 2 4 1 0x40).hi ∧ (profile 2 4 1 0x40).policy = .error ∧
    (profile 2 4 1 0x20).policy = .wrap :=
  ⟨profileInv_subbyte, profileInv_error, profileInv_wrap, by decide +kernel⟩

/-- Two samples of one period under WRAP, the period one above the range. -/
theorem witness_QmapMonotone :
    ProfileInv caps (profile 2 4 1 0x20) ∧ val 0x401C000000000000 = .num 7 ∧
    val 0x4020000000000000 = .num 8 ∧ (7 : ℚ) ≤ 8 ∧
    qmap (profile 2 4 1 0x20) 0x401C000000000000 = .code 0 ∧
    qmap (profile 2 4 1 0x20) 0x4020000000000000 = .code 1 ∧
    (profile 2 4 1 0x20).policy = .wrap ∧ (profile 2 4 1 0x20).lo + 1 * 6 ≤ 7 ∧
    8 < (profile 2 4 1 0x20).hi + 1 * 6 ∧
    ProfileInv caps (profile 2 4 1 0) ∧ (profile 2 4 1 0).policy = .clamp ∧
    qmap (profile 2 4 1 0) 0x401C000000000000 = .code 3 ∧
    qmap (profile 2 4 1 0) 0x4020000000000000 = .code 3 :=
  ⟨profileInv_wrap, by decide +kernel, by decide +kernel, by norm_num, by decide +kernel,
    by decide +kernel, by decide +kernel, by decide +kernel, by decide +kernel, profileInv_subbyte,
    by decide +kernel, by decide +kernel, by decide +kernel⟩

/-- Both ends of the code range. -/
theorem witness_DmapStaysInTheRange :
    ProfileInv caps (profile 2 4 1 0) ∧ (0#32).toNat = 0 ∧ (3#32).toNat = 2 ^ (profile 2 4 1 0).bits - 1 :=
  ⟨profileInv_subbyte, by decide, by decide⟩

/-- Four samples, the last clipped from above. -/
def quantizing (mode : BitVec 7) : State :=
  started .quantize (withPhases [0, 0x4008000000000000, 0x401C000000000000, 0xBFF0000000000000]
    (active (profile 2 4 1 mode)))

/-- The samples of `quantizing`. -/
def samples (i : Nat) : Word64 :=
  [0, 0x4008000000000000, 0x401C000000000000, 0xBFF0000000000000].getD i 0

theorem witness_QuantizeWritesCodes :
    (quantizing 0).profileValid = true ∧ (quantizing 0).snap.srcRes = (quantizing 0).act.res ∧
    (quantizing 0).act.pixels = 4 ∧
    ∀ i, i < 4 → phaseWord? (quantizing 0).mem i = some (samples i) ∧
      qmap (quantizing 0).act (samples i) = .code ([0#32, 2, 3, 0].getD i 0) := by decide +kernel

theorem witness_QuantizeReportsLowestBadSample :
    (quantizing 0x40).profileValid = true ∧
    (quantizing 0x40).snap.srcRes = (quantizing 0x40).act.res ∧ 2 < (quantizing 0x40).act.pixels ∧
    (∀ i, i < 3 → phaseWord? (quantizing 0x40).mem i = some (samples i)) ∧
    (∀ i, i < 2 → qmap (quantizing 0x40).act (samples i) = .code ([0#32, 2].getD i 0)) ∧
    qmap (quantizing 0x40).act (samples 2) = .ood 0x4018000000000000 := by decide +kernel

/-- Four codes up to `M`, before DEQUANTIZE or PACK. -/
def coding (i : Instr) (cs : List Word) : State :=
  started i (withCodes cs (active (profile 2 4 1 0)))

theorem witness_DequantizeWritesPhases :
    (coding .dequantize [0, 1, 2, 3]).profileValid = true ∧
    (coding .dequantize [0, 1, 2, 3]).snap.srcRes = (coding .dequantize [0, 1, 2, 3]).act.res ∧
    ∀ i, i < 4 → codeWord? (coding .dequantize [0, 1, 2, 3]).mem i = some (BitVec.ofNat 32 i) ∧
      (BitVec.ofNat 32 i).toNat ≤ 2 ^ (coding .dequantize [0, 1, 2, 3]).act.bits - 1 := by
  decide +kernel

/-- A word at `M` before the bad one, `M + 1`. -/
theorem witness_LowestCodeAboveMaxReported :
    (coding .pack [3, 4, 9, 0]).profileValid = true ∧
    (coding .pack [3, 4, 9, 0]).snap.srcRes = (coding .pack [3, 4, 9, 0]).act.res ∧
    1 < (coding .pack [3, 4, 9, 0]).act.pixels ∧
    codeWord? (coding .pack [3, 4, 9, 0]).mem 0 = some 3 ∧
    codeWord? (coding .pack [3, 4, 9, 0]).mem 1 = some 4 ∧
    (3#32).toNat ≤ 2 ^ (coding .pack [3, 4, 9, 0]).act.bits - 1 ∧
    2 ^ (coding .pack [3, 4, 9, 0]).act.bits - 1 < (4#32).toNat := by decide +kernel

/-- Two states that differ outside what the commands read. -/
theorem witness_QuantizerIsDeterministic :
    ({ quantizing 0 with overrun := true }).act = (quantizing 0).act ∧
    ({ quantizing 0 with overrun := true }).snap.srcRes = (quantizing 0).snap.srcRes ∧
    (∀ i, i < (quantizing 0).act.pixels → phaseWord? (quantizing 0).mem i = some (samples i)) ∧
    (∀ i, i < 4 → codeWord? (coding .dequantize [0, 1, 2, 3]).mem i = some (BitVec.ofNat 32 i)) ∧
    ((nextOf (exec .quantize (quantizing 0))).map (·.err)) = some .noError ∧
    ((nextOf (exec .dequantize (coding .dequantize [0, 1, 2, 3]))).map (·.err)) = some .noError := by
  decide +kernel

/-- The last stream position of a 3 by 2 frame with both flips, and the profiles with one flip each. -/
theorem witness_SourceIndexIsInvolution :
    5 < (profile 4 3 2 0x18).pixels ∧ (profile 4 3 2 0x18).rowFlip = true ∧
    (profile 4 3 2 0x18).colFlip = true ∧ (profile 4 3 2 0x08).res = (profile 4 3 2 0x18).res ∧
    (profile 4 3 2 0x08).rowFlip = true ∧ (profile 4 3 2 0x08).colFlip = false ∧
    (profile 4 3 2 0x10).rowFlip = false ∧ (profile 4 3 2 0x10).colFlip = true := by decide +kernel

/-- The last code bit and the first padding bit, under both bit orders. -/
theorem witness_PackedStreamBits :
    (profile 3 3 1 0).layout = .packedSubbyte ∧ (profile 3 3 1 0).order = .msbFirst ∧
    (profile 3 3 1 1).layout = .packedSubbyte ∧ (profile 3 3 1 1).order = .lsbFirst ∧
    8 < 8 * (profile 3 3 1 0).packedBytes ∧ 9 < 8 * (profile 3 3 1 0).packedBytes ∧
    (profile 3 3 1 0).bits * (profile 3 3 1 0).pixels = 9 := by decide +kernel

/-- The largest 12-bit code, its high byte, under each multibyte layout and both values of BIT_ORDER. -/
theorem witness_PackedUnitBytes :
    (0xFFF#32).toNat ≤ 2 ^ (profile 12 3 2 0x02).bits - 1 ∧ 1 < (profile 12 3 2 0x02).unitBytes ∧
    (profile 12 3 2 0x02).layout = .leMultibyte ∧ (profile 12 3 2 0x03).layout = .leMultibyte ∧
    (profile 12 3 2 0x04).layout = .beMultibyte ∧ (profile 12 3 2 0x05).layout = .beMultibyte ∧
    (profile 12 3 2 0x02).bits ≤ 8 * 1 + 4 := by decide +kernel

theorem witness_PackedBufferAsOneNumber :
    (profile 3 3 1 0).layout = .packedSubbyte ∧ (profile 3 3 1 0).order = .msbFirst ∧
    (profile 3 3 1 1).layout = .packedSubbyte ∧ (profile 3 3 1 1).order = .lsbFirst ∧
    1 ≤ (profile 3 3 1 0).bits ∧ (profile 3 3 1 0).bits ≤ 8 ∧
    (7#32).toNat ≤ 2 ^ (profile 3 3 1 0).bits - 1 := by decide +kernel

/-- Two buffers that differ in an unused bit. -/
theorem witness_PackOfExtractedClearsPadding :
    ProfileInv caps (profile 12 3 2 0x02) ∧ usedBit (profile 12 3 2 0x02) 1 3 = true ∧
      usedBit (profile 12 3 2 0x02) 1 4 = false ∧ 1 < (profile 12 3 2 0x02).packedBytes :=
  ⟨profileInv_le, by decide +kernel, by decide +kernel, by decide +kernel⟩

theorem witness_PackWritesBytes :
    (coding .pack [0, 1, 2, 3]).profileValid = true ∧
    (coding .pack [0, 1, 2, 3]).snap.srcRes = (coding .pack [0, 1, 2, 3]).act.res ∧
    ∀ i, i < 4 → codeWord? (coding .pack [0, 1, 2, 3]).mem i = some (BitVec.ofNat 32 i) ∧
      (BitVec.ofNat 32 i).toNat ≤ 2 ^ (coding .pack [0, 1, 2, 3]).act.bits - 1 := by decide +kernel

/-- One packed byte, before UNPACK. -/
def unpacking : State := started .unpack (withBytes [0xC6] (active (profile 2 4 1 0)))

theorem witness_UnpackWritesCodes :
    unpacking.profileValid = true ∧ ProfileInv unpacking.caps unpacking.act ∧
    unpacking.snap.srcLen = unpacking.packLen ∧ unpacking.act.packedBytes = 1 ∧
    packByte? unpacking.mem 0 = some 0xC6 :=
  ⟨rfl, profileInv_subbyte, by decide +kernel, by decide +kernel, by decide +kernel⟩

theorem activeInv_coding (i : Instr) (cs : List Word) : ActiveInv (coding i cs) := by
  have hf : ∀ {α : Type} (g : State → α), (∀ i c t, g (codeWrite i c t) = g t) →
      g (withCodes cs (active (profile 2 4 1 0))) = g (active (profile 2 4 1 0)) := fun g hg =>
    forRange_field g (fun i t => hg i _ t) _ _
  exact activeInv_of profileInv_subbyte (by decide +kernel) (hf State.caps fun _ _ _ => rfl)
    (hf State.act fun _ _ _ => rfl) (hf State.packLen fun _ _ _ => rfl)
    (hf State.profileValid fun _ _ _ => rfl)

theorem witness_UnpackUndoesPack :
    ActiveInv (coding .pack [0, 1, 2, 3]) ∧ (coding .pack [0, 1, 2, 3]).profileValid = true ∧
    (coding .pack [0, 1, 2, 3]).snap.srcRes = (coding .pack [0, 1, 2, 3]).act.res ∧
    (coding .pack [0, 1, 2, 3]).srcLen = (coding .pack [0, 1, 2, 3]).packLen ∧
    ∀ i, i < 4 → codeWord? (coding .pack [0, 1, 2, 3]).mem i = some (BitVec.ofNat 32 i) ∧
      (BitVec.ofNat 32 i).toNat ≤ 2 ^ (coding .pack [0, 1, 2, 3]).act.bits - 1 :=
  ⟨activeInv_coding _ _, by decide +kernel, by decide +kernel, by decide +kernel, by decide +kernel⟩

theorem activeInv_quantizing : ActiveInv (quantizing 0) := by
  have hf : ∀ {α : Type} (g : State → α), (∀ i c t, g (phaseWrite i c t) = g t) →
      g (withPhases [0, 0x4008000000000000, 0x401C000000000000, 0xBFF0000000000000]
        (active (profile 2 4 1 0))) = g (active (profile 2 4 1 0)) := fun g hg =>
    forRange_field g (fun i t => hg i _ t) _ _
  exact activeInv_of profileInv_subbyte (by decide +kernel) (hf State.caps fun _ _ _ => rfl)
    (hf State.act fun _ _ _ => rfl) (hf State.packLen fun _ _ _ => rfl)
    (hf State.profileValid fun _ _ _ => rfl)

theorem witness_PackAfterQuantizeSucceeds :
    ActiveInv (quantizing 0) ∧ (quantizing 0).srcRes = (quantizing 0).snap.srcRes ∧
    ∃ t, exec .quantize (quantizing 0) = .next t ∧ t.err = .noError :=
  ⟨activeInv_quantizing, by decide +kernel, _, rfl, by decide +kernel⟩

theorem activeInv_unpacking : ActiveInv unpacking :=
  activeInv_of profileInv_subbyte (by decide +kernel) rfl rfl rfl rfl

theorem witness_DequantizeAfterUnpackSucceeds :
    ActiveInv unpacking ∧ unpacking.srcRes = unpacking.act.res ∧
    ∃ t, exec .unpack unpacking = .next t ∧ t.err = .noError :=
  ⟨activeInv_unpacking, by decide +kernel, _, rfl, by decide +kernel⟩

/-- The lists of the statements about registers, each at a member and at a register outside it. -/
theorem witness_registers :
    Reg.capDepth ∈ [Reg.id, .version, .capDepth] ∧ Reg.cfgPminLo ≠ .cmd ∧ Reg.cfgPminLo ≠ .status ∧
      Reg.cfgPminHi ≠ Reg.cfgPminLo ∧ Reg.irqEn ∉ [Reg.id, .version, .capPhase] := by decide

/-- Each code of BYTE_LAYOUT and POLICY, and a finite range. -/
theorem witness_RegisterFieldEncodings :
    (profile 2 4 1 0).mode.extractLsb' 1 2 = 0#2 ∧ (profile 2 4 1 0x02).mode.extractLsb' 1 2 = 1#2 ∧
    (profile 2 4 1 0x04).mode.extractLsb' 1 2 = 2#2 ∧ (profile 2 4 1 0x06).mode.extractLsb' 1 2 = 3#2 ∧
    (profile 2 4 1 0).mode.extractLsb' 5 2 = 0#2 ∧ (profile 2 4 1 0x20).mode.extractLsb' 5 2 = 1#2 ∧
    (profile 2 4 1 0x40).mode.extractLsb' 5 2 = 2#2 ∧ (profile 2 4 1 0x60).mode.extractLsb' 5 2 = 3#2 ∧
    val (profile 2 4 1 0).pmin = .num 0 ∧ val (profile 2 4 1 0).pmax = .num 6 := by decide +kernel

theorem witness_ResetLeavesTableValues :
    ({ started .pack State.reset with turns := [.reset] }).turns = [.reset] := rfl

/-- Vectors V-BUS-4 and V-BUS-9: a bus error of a read carries data 0, one of a write none. -/
theorem test_bus_error :
    (hostMove { State.reset with host := ⟨[.read .w8 0x00000000 0], 0, []⟩ } matches
      .fault (.busReadError 0#32)) = true ∧
    (hostMove { State.reset with host := ⟨[.write .w16 0x30000001 (.const 0xBEEF)], 0, []⟩ } matches
      .fault .busWriteError) = true := by decide +kernel

theorem witness_BusErrorExactlyOutsideTheMap :
    capsWellFormed (State.resetWith caps).caps = true ∧
    busTarget caps .w32 0x000000CC = some (.reg .capDepth) ∧ busTarget caps .w32 0x000000D0 = none ∧
    busTarget caps .w32 0x1000003C = some (.phase 7 true) ∧ busTarget caps .w32 0x10000040 = none ∧
    busTarget caps .w32 0x2000001C = some (.code 7) ∧ busTarget caps .w32 0x20000020 = none ∧
    busTarget caps .w16 0x3000000E = some (.pack 14 2) ∧ busTarget caps .w8 0x30000010 = none ∧
    busTarget caps .w16 0x30000001 = none ∧ busTarget caps .w16 0x10000000 = none := by decide +kernel

theorem witness_ReadsHaveNoSideEffect :
    ∃ v t, busRead .w32 0x20000000#32 (State.resetWith caps) = .ok (v, t) := ⟨_, _, rfl⟩

/-- The last byte, halfword and word of PACK_MEM, and a halfword read inside the word. -/
theorem witness_PackWindowIsLittleEndian :
    capsWellFormed (State.resetWith caps).caps = true ∧ (State.resetWith caps).engine = .idle ∧
      15 % 1 = 0 ∧ 15 + 1 ≤ (State.resetWith caps).caps.packBytes ∧
      14 % 2 = 0 ∧ 14 + 2 ≤ (State.resetWith caps).caps.packBytes ∧
      12 % 4 = 0 ∧ 12 + 4 ≤ (State.resetWith caps).caps.packBytes ∧
      (12 + 2) % 2 = 0 ∧ 2 + 2 ≤ 4 := by decide

/-- The last entries of both windows, one of them with a stored word. -/
theorem witness_PhaseAndCodeWindowWrites :
    capsWellFormed caps = true ∧ 7 < caps.phaseEntries ∧ 7 < caps.codeEntries ∧
      phaseWord? (phaseWrite 7 5 (State.resetWith caps)).mem 7 = some 5 ∧
      (phaseWrite 7 5 (State.resetWith caps)).engine = .idle := by decide +kernel

/-- A target in each window, the last word in range and the first past it. -/
theorem witness_HostRaceExactlyInTheRanges :
    (∃ snap, (started .pack (active (profile 2 4 1 0))).engine = .running (.command .pack) snap) ∧
    busTarget caps .w32 0x2000000C = some (.code 3) ∧ busTarget caps .w32 0x20000010 = some (.code 4) ∧
    busTarget caps .w8 0x30000000 = some (.pack 0 1) ∧
    busTarget caps .w8 0x30000001 = some (.pack 1 1) ∧
    busTarget caps .w32 0x10000000 = some (.phase 0 false) ∧
    busTarget caps .w32 0x00000020 = some (.reg .cfgDepth) ∧
    (active (profile 2 4 1 0)).act.pixels = 4 ∧ (active (profile 2 4 1 0)).act.packedBytes = 1 :=
  ⟨⟨_, rfl⟩, by decide +kernel⟩

/-- A word of each destination range, the first past it, an unwritten word, and a written word outside the
range. -/
theorem witness_UnspecifiedReadsAreFree :
    busTarget caps .w32 0x2000000C = some (.code 3) ∧ busTarget caps .w32 0x20000010 = some (.code 4) ∧
    busTarget caps .w32 0x10000004 = some (.phase 0 true) ∧
    busTarget caps .w32 0x30000000 = some (.pack 0 4) ∧
    (quantizing 0).engine = .running (.command .quantize) (quantizing 0).snap ∧
    (coding .dequantize []).engine = .running (.command .dequantize) (coding .dequantize []).snap ∧
    (coding .pack []).engine = .running (.command .pack) (coding .pack []).snap ∧
    (quantizing 0).act.pixels = 4 ∧ (coding .dequantize []).act.pixels = 4 ∧
    (coding .pack []).act.packedBytes = 1 ∧
    phaseWord? (active (profile 2 4 1 0)).mem 0 = none ∧
    codeWord? (active (profile 2 4 1 0)).mem 3 = none ∧
    phaseWord? (quantizing 0).mem 0 = some 0 ∧
    codeWord? (coding .pack [0, 1, 2, 3]).mem 3 = some 3 ∧
    packByte? unpacking.mem 0 = some 0xC6 ∧ packByte? unpacking.mem 1 = none := by decide +kernel

/-- R92: the bits of a width above 65535 are merged into the height. -/
theorem test_resWord : resWord 65537 1 = 0x00010001 ∧ resWord 4 2 = 0x00020004 := by decide

/-- R223 for one pixel and one packed byte, from line 5: an error goes past the read. -/
theorem test_hostEncode :
    hostEncode 5 [0x400921FB54442D18] 1 1 1 0 7 =
      [.write .w32 0x10000000 (.const 0x54442D18), .write .w32 0x10000004 (.const 0x400921FB),
       .write .w32 0x040 (.const 0x00010001),
       .write .w32 0x008 (.const 2), .poll 0x00C 0 0 0, .read .w32 0x00C 0, .ifGoto (.fieldNe 0 11 8 0) 17,
       .write .w32 0x008 (.const 4), .poll 0x00C 0 0 0, .read .w32 0x00C 0, .ifGoto (.fieldNe 0 11 8 0) 17,
       .read .w8 0x30000000 7] := by decide +kernel

/-- R224 for one pixel and one packed byte: an error goes past the reads. -/
theorem test_hostDecode :
    hostDecode 0 [0xC6] 1 1 0 7 =
      [.write .w8 0x30000000 (.const 0xC6), .write .w32 0x044 (.const 1),
       .write .w32 0x040 (.const 0x00010001),
       .write .w32 0x008 (.const 5), .poll 0x00C 0 0 0, .read .w32 0x00C 0, .ifGoto (.fieldNe 0 11 8 0) 13,
       .write .w32 0x008 (.const 3), .poll 0x00C 0 0 0, .read .w32 0x00C 0, .ifGoto (.fieldNe 0 11 8 0) 13,
       .read .w32 0x10000000 7, .read .w32 0x10000004 8] := by decide +kernel

/-- The state after reset with a host program of the three lines of `run PACK`. -/
def runningPack : State := { State.reset with host := ⟨hostRun .pack 0, 0, []⟩ }

theorem witness_RunSequenceEnds :
    runningPack.engine = .idle ∧ runningPack.turns = [] ∧
    ∀ n, n < 3 → runningPack.host.prog[runningPack.host.pc + n]? = (hostRun .pack 0)[n]? :=
  ⟨rfl, rfl, by decide +kernel⟩

/-- An active profile, empty buffers, and a host line that writes CODE_MEM. -/
def hosting : State :=
  { active (profile 2 4 1 0) with host := ⟨hostWrCode 0 7, 0, []⟩ }

theorem activeInv_hosting : ActiveInv hosting :=
  activeInv_of profileInv_subbyte (by decide +kernel) rfl rfl rfl rfl

theorem witness_StepKeepsMemoryInvariants :
    ActiveInv hosting ∧ MemInv hosting ∧ ∃ t, step hosting = .next t ∧ codeWord? t.mem 0 = some 7 :=
  ⟨activeInv_hosting, ⟨rfl, by simp [hosting, active, latchProfile, State.resetWith, memByte?],
    fun _ _ _ _ _ _ => rfl, fun _ _ _ _ _ _ => rfl⟩, _, rfl, by decide +kernel⟩

theorem witness_StepKeepsActiveProfileInvariants :
    ActiveInv unpacking ∧ ∃ t, step unpacking = .next t := ⟨activeInv_unpacking, _, rfl⟩

theorem witness_StepKeepsEngineInvariants :
    EngineInv unpacking ∧ ∃ t, step unpacking = .next t :=
  ⟨⟨fun h => (by cases h), fun _ => rfl, fun _ => ⟨rfl, rfl, rfl⟩,
    fun op snap h => (by cases h; decide +kernel)⟩, _, rfl⟩

theorem witness_InvariantsHoldAtReset :
    capsWellFormed ⟨2 ^ 25, 2 ^ 26, 2 ^ 28⟩ = true ∧ capsWellFormed ⟨1, 1, 4⟩ = true := by decide

theorem witness_OnlyValidateChangesTheActiveProfile :
    ∃ t, step (validating (profile 2 4 1 0)) = .next t ∧
      t.act ≠ (validating (profile 2 4 1 0)).act := ⟨_, rfl, by decide +kernel⟩

theorem witness_OnlyCompletionOrResetEndsACommand :
    (∃ t, step unpacking = .next t ∧ t.done = true) ∧
      ∃ op snap, unpacking.engine = .running op snap := ⟨⟨_, rfl, by decide +kernel⟩, _, _, rfl⟩

end Sys2Proof.Tests
end

section
/-! PROOFS. The two roundings (00_scope.md R11 to R13): `rne` is the nearest integer with ties to even, and `fl64`
the nearest finite binary64 word. Both are shown on magnitudes counted in units of `2^-1074`, where every finite
word is an integer: a word of exponent field `e` is a multiple of its unit in the last place, and below the binade
of `x` every word lies under the least number of that binade. -/

namespace Sys2Proof.Proofs.Numbers

open Sys2Proof Sys2Proof.Machine

/-! ### `rne` -/

/- The model's `Rat.floor` is Mathlib's floor on `ℚ` by definition; these two say so once. -/
theorem floor_le_self (q : ℚ) : (q.floor : ℚ) ≤ q := Int.floor_le q

theorem self_lt_floor_add_one (q : ℚ) : q < q.floor + 1 := Int.lt_floor_add_one q

/-- Where `rne` stands: within a half of `q`, and even when it is a half away. -/
theorem abs_sub_rne (q : ℚ) :
    |q - (rne q : ℚ)| ≤ 1 / 2 ∧ (|q - (rne q : ℚ)| = 1 / 2 → rne q % 2 = 0) := by
  have hlo := floor_le_self q
  have hhi := self_lt_floor_add_one q
  unfold rne
  split_ifs with hbelow habove heven
  · rw [abs_of_nonneg (by linarith)]
    exact ⟨by linarith, fun h => by linarith⟩
  · push_cast
    rw [abs_of_nonpos (by linarith)]
    exact ⟨by linarith, fun h => by linarith⟩
  · rw [abs_of_nonneg (by linarith)]
    exact ⟨by linarith, fun _ => heven⟩
  · push_cast
    rw [abs_of_nonpos (by linarith)]
    exact ⟨by linarith, fun _ => by omega⟩

theorem half_le_abs_sub {q : ℚ} {n : ℤ} (hn : n ≠ rne q) : 1 / 2 ≤ |q - (n : ℚ)| := by
  have hsep : (1 : ℚ) ≤ |(rne q : ℚ) - n| := by
    exact_mod_cast Int.one_le_abs (sub_ne_zero.mpr hn.symm)
  have htri : |(rne q : ℚ) - n| ≤ |q - (rne q : ℚ)| + |q - (n : ℚ)| := by
    rw [abs_sub_comm q]
    exact abs_sub_le _ _ _
  linarith [(abs_sub_rne q).1]

/-- Settles O18: `rne q` is within a half of `q`, and every other integer is at least a half away. -/
theorem rneIsNearestEven : Obligations.RneIsNearestEven := by
  intro q
  obtain ⟨hhalf, heven⟩ := abs_sub_rne q
  refine ⟨fun n => ?_, fun n hn htie => ?_⟩
  · rcases eq_or_ne n (rne q) with rfl | hn
    · exact le_rfl
    · exact hhalf.trans (half_le_abs_sub hn)
  · exact heven (le_antisymm hhalf (htie ▸ half_le_abs_sub hn))

theorem rne_le {q : ℚ} {n : ℤ} (h : q ≤ n) : rne q ≤ n := by
  have hhalf := neg_le_of_abs_le (abs_sub_rne q).1
  have : (rne q : ℚ) < n + 1 := by linarith
  exact Int.lt_add_one_iff.mp (by exact_mod_cast this)

theorem le_rne {q : ℚ} {n : ℤ} (h : (n : ℚ) ≤ q) : n ≤ rne q := by
  have hhalf := le_of_abs_le (abs_sub_rne q).1
  have : (n : ℚ) < rne q + 1 := by linarith
  exact Int.lt_add_one_iff.mp (by exact_mod_cast this)

/-! ### What a word denotes -/

theorem f64Exp_eq (w : Word64) : f64Exp w = w.toNat / 2 ^ 52 % 2 ^ 11 := by
  simp [f64Exp, Nat.shiftRight_eq_div_pow]

theorem f64Frac_eq (w : Word64) : f64Frac w = w.toNat % 2 ^ 52 := by
  simp [f64Frac]

theorem f64Frac_lt (w : Word64) : f64Frac w < 2 ^ 52 := by
  rw [f64Frac_eq]
  exact Nat.mod_lt _ (by norm_num)

theorem f64Exp_lt (w : Word64) : f64Exp w < 2 ^ 11 := by
  rw [f64Exp_eq]
  exact Nat.mod_lt _ (by norm_num)

/-- What a finite word denotes, in units of `2^-1074`. -/
def signedUnits (w : Word64) : ℤ := if f64Sign w then -(f64Units w : ℤ) else f64Units w

@[simp] theorem natAbs_signedUnits (w : Word64) : (signedUnits w).natAbs = f64Units w := by
  unfold signedUnits
  split <;> simp

theorem val_of_finite {w : Word64} (h : f64Exp w ≠ 0x7FF) :
    val w = .num ((signedUnits w : ℚ) / 2 ^ 1074) := by
  simp only [val, if_neg h, signedUnits, Rat.mkRat_eq_div, Nat.cast_pow, Nat.cast_ofNat]

theorem val_eq_num_iff {w : Word64} {v : ℚ} :
    val w = .num v ↔ f64Exp w ≠ 0x7FF ∧ v = (signedUnits w : ℚ) / 2 ^ 1074 := by
  by_cases h : f64Exp w = 0x7FF
  · simp only [val, h, ne_eq, not_true_eq_false, false_and, iff_false]
    split_ifs <;> simp
  · simp only [val_of_finite h, FVal.num.injEq, ne_eq, h, not_false_eq_true, true_and, eq_comm]

theorem val_of_specialExp {w : Word64} (h : f64Exp w = 0x7FF) :
    val w = if f64Frac w = 0 then (if w.getLsbD 63 then .negInf else .posInf) else .nan := by
  rw [val, if_pos h]
  rfl

theorem signedUnits_eq_sign_mul (w : Word64) :
    (signedUnits w : ℚ) = (if w.getLsbD 63 then -1 else 1) * (f64Units w : ℚ) := by
  unfold signedUnits f64Sign
  split <;> simp

theorem f64Units_subnormal {w : Word64} (h : f64Exp w = 0) : f64Units w = f64Frac w := if_pos h

theorem f64Units_normal {w : Word64} (h : f64Exp w ≠ 0) :
    f64Units w = (2 ^ 52 + f64Frac w) * 2 ^ (f64Exp w - 1) := if_neg h

theorem val_subnormal {w : Word64} (h : f64Exp w = 0) :
    val w = .num ((if w.getLsbD 63 then -1 else 1) * (f64Frac w : ℚ) * 2 ^ (-1074 : ℤ)) := by
  rw [val_of_finite (by omega), signedUnits_eq_sign_mul, f64Units_subnormal h, zpow_neg, div_eq_mul_inv]
  rfl

theorem val_normal {w : Word64} (h : f64Exp w ≠ 0) (hfin : f64Exp w ≠ 0x7FF) :
    val w = .num ((if w.getLsbD 63 then -1 else 1) * (2 ^ 52 + (f64Frac w : ℚ)) *
      2 ^ ((f64Exp w : ℤ) - 1075)) := by
  have hexp : (2 : ℚ) ^ ((f64Exp w : ℤ) - 1075) = 2 ^ (f64Exp w - 1) / 2 ^ 1074 := by
    rw [show (f64Exp w : ℤ) - 1075 = ((f64Exp w - 1 : ℕ) : ℤ) - ((1074 : ℕ) : ℤ) by omega,
      zpow_sub₀ two_ne_zero, zpow_natCast, zpow_natCast]
  rw [val_of_finite hfin, signedUnits_eq_sign_mul, f64Units_normal h, hexp]
  rw [Nat.cast_mul, Nat.cast_add, Nat.cast_pow, Nat.cast_pow, Nat.cast_ofNat, mul_div_assoc,
    mul_div_assoc, mul_assoc]

/-! ### The finite words on the grid of units -/

/-- Against the binade whose unit in the last place is `2^p` units: a word is on its grid or below it. -/
theorem dvd_or_lt_f64Units (w : Word64) (p : ℕ) :
    2 ^ p ∣ f64Units w ∨ f64Units w < 2 ^ (52 + p) := by
  have hfrac := f64Frac_lt w
  by_cases he : f64Exp w = 0
  · rw [f64Units_subnormal he]
    exact .inr (hfrac.trans_le (Nat.pow_le_pow_right two_pos (by omega)))
  rw [f64Units_normal he]
  rcases le_or_gt p (f64Exp w - 1) with hp | hp
  · exact .inl (Dvd.dvd.mul_left (pow_dvd_pow 2 hp) _)
  · right
    calc (2 ^ 52 + f64Frac w) * 2 ^ (f64Exp w - 1)
        < 2 ^ 53 * 2 ^ (f64Exp w - 1) := Nat.mul_lt_mul_of_pos_right (by omega) (by positivity)
      _ = 2 ^ (53 + (f64Exp w - 1)) := (pow_add _ _ _).symm
      _ ≤ 2 ^ (52 + p) := Nat.pow_le_pow_right two_pos (by omega)

/-- The largest finite word, in units. -/
def maxUnits : ℕ := (2 ^ 53 - 1) * 2 ^ 2045

theorem maxUnits_lt : maxUnits < 2 ^ (53 + 2045) := by
  rw [pow_add]
  exact Nat.mul_lt_mul_of_pos_right (by omega) (pow_pos two_pos 2045)

theorem f64Units_le_maxUnits {w : Word64} (h : f64Exp w ≠ 0x7FF) : f64Units w ≤ maxUnits := by
  have hfrac := f64Frac_lt w
  have hexp := f64Exp_lt w
  by_cases he : f64Exp w = 0
  · rw [f64Units_subnormal he]
    exact le_trans (by omega) (Nat.le_mul_of_pos_right _ (pow_pos two_pos 2045))
  · have hfin : f64Exp w - 1 ≤ 2045 := by omega
    rw [f64Units_normal he]
    exact Nat.mul_le_mul (by omega) (pow_le_pow_right₀ one_le_two hfin)

/-- The word of magnitude `p × 2^52 + r` is `r` units in the last place, also when `r` carries into the
exponent or has no hidden bit. -/
theorem f64Units_of_magnitude {w : Word64} {p r : ℕ} (hw : w.toNat % 2 ^ 63 = p * 2 ^ 52 + r)
    (hr : r ≤ 2 ^ 53) (hp : p = 0 ∨ 2 ^ 52 ≤ r) : f64Units w = r * 2 ^ p := by
  have hexp := f64Exp_eq w
  have hfrac := f64Frac_eq w
  rcases lt_or_ge r (2 ^ 52) with hsub | hnorm
  · obtain rfl : p = 0 := by omega
    rw [f64Units_subnormal (by omega)]
    omega
  rcases hr.lt_or_eq with hlt | rfl
  · rw [f64Units_normal (by omega), show f64Exp w - 1 = p by omega,
      show 2 ^ 52 + f64Frac w = r by omega]
  · rw [f64Units_normal (by omega), show f64Exp w - 1 = p + 1 by omega,
      show f64Frac w = 0 by omega, pow_succ']
    ring

/-! ### Rounding a magnitude -/

/-- The exponent of the unit in the last place at `x` units. -/
def ulpExp (x : ℚ) : ℕ := Nat.log2 x.floor.toNat - 52

/-- `x` rounded to a count of units in the last place. -/
def significand (x : ℚ) : ℕ := (rne (x / 2 ^ ulpExp x)).toNat

theorem f64OfUnits_eq (x : ℚ) : f64OfUnits x = ulpExp x * 2 ^ 52 + significand x := by
  simp only [f64OfUnits, ulpExp, significand, Nat.cast_pow, Nat.cast_ofNat]

theorem abs_sub_onGrid (x : ℚ) (n : ℤ) :
    |x - n * 2 ^ ulpExp x| = |x / 2 ^ ulpExp x - n| * 2 ^ ulpExp x := by
  have hpos : (0 : ℚ) < 2 ^ ulpExp x := by positivity
  rw [← abs_of_pos hpos, ← abs_mul, abs_of_pos hpos, sub_mul, div_mul_cancel₀ _ hpos.ne']

section
variable {x : ℚ} (hx : 0 ≤ x)
include hx

theorem floor_toNat_cast : ((x.floor.toNat : ℕ) : ℚ) = x.floor := by
  exact_mod_cast Int.toNat_of_nonneg (Int.floor_nonneg.mpr hx)

theorem lt_two_pow_ulpExp : x < 2 ^ (53 + ulpExp x) := by
  have hnat : x.floor.toNat + 1 ≤ 2 ^ (53 + ulpExp x) :=
    Nat.lt_log2_self.trans_le (Nat.pow_le_pow_right two_pos (by unfold ulpExp; omega))
  calc x < x.floor + 1 := self_lt_floor_add_one x
    _ = ((x.floor.toNat + 1 : ℕ) : ℚ) := by rw [Nat.cast_add_one, floor_toNat_cast hx]
    _ ≤ 2 ^ (53 + ulpExp x) := by exact_mod_cast hnat

theorem ulpExp_eq_zero_or_le : ulpExp x = 0 ∨ 2 ^ (52 + ulpExp x) ≤ x := by
  rcases Nat.eq_zero_or_pos (ulpExp x) with h | h
  · exact .inl h
  have hlog : 52 + ulpExp x = Nat.log2 x.floor.toNat := by unfold ulpExp at h ⊢; omega
  have hne : x.floor.toNat ≠ 0 := fun h0 => by simp [h0] at hlog
  right
  calc (2 : ℚ) ^ (52 + ulpExp x) ≤ (x.floor.toNat : ℕ) := by
        rw [hlog]
        exact_mod_cast Nat.log2_self_le hne
    _ = x.floor := floor_toNat_cast hx
    _ ≤ x := floor_le_self x

theorem significand_cast : (significand x : ℤ) = rne (x / 2 ^ ulpExp x) :=
  Int.toNat_of_nonneg (le_rne (by push_cast; positivity))

theorem significand_le {n : ℕ} (h : x ≤ n * 2 ^ ulpExp x) : significand x ≤ n := by
  have : rne (x / 2 ^ ulpExp x) ≤ (n : ℤ) := rne_le (by
    rw [div_le_iff₀ (by positivity)]
    exact_mod_cast h)
  have := significand_cast hx
  omega

theorem significand_le_two_pow : significand x ≤ 2 ^ 53 :=
  significand_le hx (by
    rw [Nat.cast_pow, Nat.cast_ofNat, ← pow_add]
    exact (lt_two_pow_ulpExp hx).le)

theorem ulpExp_eq_zero_or_le_significand : ulpExp x = 0 ∨ 2 ^ 52 ≤ significand x := by
  refine (ulpExp_eq_zero_or_le hx).imp id fun h => ?_
  have : ((2 ^ 52 : ℕ) : ℤ) ≤ rne (x / 2 ^ ulpExp x) := le_rne (by
    rw [le_div_iff₀ (by positivity)]
    rwa [Int.cast_natCast, Nat.cast_pow, Nat.cast_ofNat, ← pow_add])
  have := significand_cast hx
  omega

theorem ulpExp_le (hmax : x ≤ maxUnits) : ulpExp x ≤ 2045 := by
  rcases ulpExp_eq_zero_or_le hx with h | h
  · omega
  · have hlt : (2 : ℚ) ^ (52 + ulpExp x) < 2 ^ (53 + 2045) :=
      (h.trans hmax).trans_lt (by exact_mod_cast maxUnits_lt)
    have := (pow_lt_pow_iff_right₀ (one_lt_two (α := ℚ))).mp hlt
    omega

theorem f64OfUnits_lt (hmax : x ≤ maxUnits) : f64OfUnits x < 2047 * 2 ^ 52 := by
  rw [f64OfUnits_eq]
  rcases (ulpExp_le hx hmax).lt_or_eq with hlt | htop
  · have := significand_le_two_pow hx
    omega
  · have : significand x ≤ 2 ^ 53 - 1 := significand_le hx (by
      rw [htop]
      exact_mod_cast hmax)
    omega

theorem significand_nearest_onGrid (n : ℤ) :
    |x - significand x * 2 ^ ulpExp x| ≤ |x - n * 2 ^ ulpExp x| := by
  rw [← Int.cast_natCast, significand_cast hx, abs_sub_onGrid, abs_sub_onGrid]
  exact mul_le_mul_of_nonneg_right ((rneIsNearestEven _).1 n) (by positivity)

theorem even_significand_of_tie_onGrid {n : ℤ} (hn : n ≠ significand x)
    (htie : |x - significand x * 2 ^ ulpExp x| = |x - n * 2 ^ ulpExp x|) : significand x % 2 = 0 := by
  have hcast := significand_cast hx
  rw [← Int.cast_natCast, hcast, abs_sub_onGrid, abs_sub_onGrid,
    mul_left_inj' (by positivity)] at htie
  have := (rneIsNearestEven _).2 n (hcast ▸ hn) htie
  omega

/-- A finite word of either sign is on the grid of `x`, or below the binade of `x` and so farther from `x` than
its rounding. -/
theorem onGrid_or_farther {w : Word64} {v : ℤ} (hv : v.natAbs = f64Units w) :
    (∃ n : ℤ, (v : ℚ) = n * 2 ^ ulpExp x) ∨
      |x - significand x * 2 ^ ulpExp x| < |x - v| := by
  rcases dvd_or_lt_f64Units w (ulpExp x) with hdvd | hbelow
  · obtain ⟨n, rfl⟩ := Int.natCast_dvd.mpr (hv ▸ hdvd)
    exact .inl ⟨n, by push_cast; ring⟩
  rcases ulpExp_eq_zero_or_le hx with h0 | hbinade
  · exact .inl ⟨v, by simp [h0]⟩
  · right
    have hvlt : (v : ℚ) < 2 ^ (52 + ulpExp x) := by
      have : v < (2 ^ (52 + ulpExp x) : ℕ) := by omega
      exact_mod_cast this
    calc |x - significand x * 2 ^ ulpExp x|
        ≤ |x - ((2 ^ 52 : ℤ) : ℚ) * 2 ^ ulpExp x| := significand_nearest_onGrid hx (2 ^ 52)
      _ = x - 2 ^ (52 + ulpExp x) := by
          rw [Int.cast_pow, Int.cast_ofNat, ← pow_add, abs_of_nonneg (sub_nonneg.mpr hbinade)]
      _ < x - v := by linarith
      _ ≤ |x - v| := le_abs_self _

theorem significand_nearest {w : Word64} {v : ℤ} (hv : v.natAbs = f64Units w) :
    |x - significand x * 2 ^ ulpExp x| ≤ |x - v| := by
  rcases onGrid_or_farther hx hv with ⟨n, hn⟩ | hlt
  · exact hn ▸ significand_nearest_onGrid hx n
  · exact hlt.le

theorem even_significand_of_tie {w : Word64} {v : ℤ} (hv : v.natAbs = f64Units w)
    (hne : (v : ℚ) ≠ significand x * 2 ^ ulpExp x)
    (htie : |x - significand x * 2 ^ ulpExp x| = |x - v|) : significand x % 2 = 0 := by
  rcases onGrid_or_farther hx hv with ⟨n, hn⟩ | hlt
  · refine even_significand_of_tie_onGrid hx (n := n) ?_ (hn ▸ htie)
    rintro rfl
    exact hne (by exact_mod_cast hn)
  · exact absurd htie hlt.ne

end

/-! ### The sign, and `fl64` -/

/-- `|q|` in units of `2^-1074`. -/
def absUnits (q : ℚ) : ℚ := |q| * 2 ^ 1074

theorem absUnits_nonneg (q : ℚ) : 0 ≤ absUnits q := mul_nonneg (abs_nonneg q) (by positivity)

/-- `n` as it lies along the sign of `q`: both negated when `q` is negative. -/
def alongSign (q : ℚ) (n : ℤ) : ℤ := if q < 0 then -n else n

@[simp] theorem natAbs_alongSign (q : ℚ) (n : ℤ) : (alongSign q n).natAbs = n.natAbs := by
  unfold alongSign
  split <;> simp

theorem alongSign_injective (q : ℚ) : Function.Injective (alongSign q) := by
  intro m n h
  unfold alongSign at h
  split at h <;> omega

theorem abs_sub_units (q : ℚ) (n : ℤ) :
    |q - n / 2 ^ 1074| = |absUnits q - alongSign q n| / 2 ^ 1074 := by
  have hpos : (0 : ℚ) < 2 ^ 1074 := by positivity
  rw [← abs_of_pos hpos, ← abs_div, abs_of_pos hpos, sub_div, absUnits,
    mul_div_cancel_right₀ _ hpos.ne']
  unfold alongSign
  split_ifs with hq
  · rw [abs_of_neg hq, Int.cast_neg, neg_div, sub_neg_eq_add, ← abs_neg]
    rw [neg_sub', sub_neg_eq_add]
  · rw [abs_of_nonneg (not_lt.mp hq)]

theorem fl64_eq (q : ℚ) : fl64 q = if q < 0 ∧ f64OfUnits (absUnits q) ≠ 0
    then BitVec.ofNat 64 (2 ^ 63 + f64OfUnits (absUnits q))
    else BitVec.ofNat 64 (f64OfUnits (absUnits q)) := by
  have hunits : absUnits q = |q| * ((2 ^ 1074 : ℕ) : ℚ) := by
    rw [absUnits, Nat.cast_pow, Nat.cast_ofNat]
  rw [hunits]
  rfl

theorem fl64_zero : fl64 0 = 0#64 := by
  have h : f64OfUnits (absUnits 0) = 0 := by decide +kernel
  rw [fl64_eq, h]
  rfl

section
variable {q : ℚ} (hmax : absUnits q ≤ maxUnits)
include hmax

theorem toNat_fl64 : (fl64 q).toNat = (if q < 0 ∧ f64OfUnits (absUnits q) ≠ 0 then 2 ^ 63 else 0) +
    f64OfUnits (absUnits q) := by
  have hlt := f64OfUnits_lt (absUnits_nonneg q) hmax
  rw [fl64_eq]
  split <;> simp only [BitVec.toNat_ofNat] <;> omega

theorem toNat_fl64_mod : (fl64 q).toNat % 2 ^ 63 = f64OfUnits (absUnits q) := by
  have hlt := f64OfUnits_lt (absUnits_nonneg q) hmax
  rw [toNat_fl64 hmax]
  split <;> omega

theorem f64Sign_fl64 : f64Sign (fl64 q) = decide (q < 0 ∧ f64OfUnits (absUnits q) ≠ 0) := by
  have hlt := f64OfUnits_lt (absUnits_nonneg q) hmax
  rw [f64Sign, BitVec.getLsbD, Nat.testBit_eq_decide_div_mod_eq, toNat_fl64 hmax, decide_eq_decide]
  split_ifs with h
  · exact iff_of_true (by omega) h
  · exact iff_of_false (by omega) h

theorem f64Exp_fl64 : f64Exp (fl64 q) ≠ 0x7FF := by
  have hlt := f64OfUnits_lt (absUnits_nonneg q) hmax
  have hmod := toNat_fl64_mod hmax
  rw [f64Exp_eq]
  omega

theorem f64Units_fl64 : f64Units (fl64 q) = significand (absUnits q) * 2 ^ ulpExp (absUnits q) :=
  f64Units_of_magnitude ((toNat_fl64_mod hmax).trans (f64OfUnits_eq _))
    (significand_le_two_pow (absUnits_nonneg q)) (ulpExp_eq_zero_or_le_significand (absUnits_nonneg q))

/-- `fl64 q` denotes the rounding of `|q|` with the sign of `q`. -/
theorem alongSign_signedUnits_fl64 : alongSign q (signedUnits (fl64 q)) = f64Units (fl64 q) := by
  unfold alongSign signedUnits
  rw [f64Sign_fl64 hmax]
  by_cases hzero : f64OfUnits (absUnits q) = 0
  · have : f64Units (fl64 q) = 0 := by
      rw [f64Units_fl64 hmax]
      have := f64OfUnits_eq (absUnits q)
      rw [show significand (absUnits q) = 0 by omega, zero_mul]
    simp [this]
  · by_cases hq : q < 0 <;> simp [hq, hzero]

theorem getLsbD_fl64_zero (heven : significand (absUnits q) % 2 = 0) : (fl64 q).getLsbD 0 = false := by
  have hmod := toNat_fl64_mod hmax
  rw [f64OfUnits_eq] at hmod
  rw [BitVec.getLsbD, Nat.testBit_eq_decide_div_mod_eq, decide_eq_false_iff_not]
  omega

/-- How far `fl64 q` is from `q`, in units. -/
theorem abs_sub_fl64 : |q - signedUnits (fl64 q) / 2 ^ 1074| =
    |absUnits q - significand (absUnits q) * 2 ^ ulpExp (absUnits q)| / 2 ^ 1074 := by
  rw [abs_sub_units, alongSign_signedUnits_fl64 hmax, f64Units_fl64 hmax, Int.cast_natCast,
    Nat.cast_mul, Nat.cast_pow, Nat.cast_ofNat]

theorem fl64_nearest (w : Word64) :
    |q - signedUnits (fl64 q) / 2 ^ 1074| ≤ |q - signedUnits w / 2 ^ 1074| := by
  rw [abs_sub_fl64 hmax, abs_sub_units]
  exact div_le_div_of_nonneg_right
    (significand_nearest (absUnits_nonneg q) (w := w) (by simp)) (by positivity)

theorem getLsbD_fl64_of_tie {w : Word64} (hne : signedUnits w ≠ signedUnits (fl64 q))
    (htie : |q - signedUnits (fl64 q) / 2 ^ 1074| = |q - signedUnits w / 2 ^ 1074|) :
    (fl64 q).getLsbD 0 = false := by
  rw [abs_sub_fl64 hmax, abs_sub_units, div_left_inj' (by positivity)] at htie
  refine getLsbD_fl64_zero hmax
    (even_significand_of_tie (absUnits_nonneg q) (w := w) (by simp) (fun heq => hne ?_) htie)
  refine alongSign_injective q ?_
  rw [alongSign_signedUnits_fl64 hmax, f64Units_fl64 hmax]
  exact_mod_cast heq

end

theorem abs_signedUnits_le {w : Word64} (h : f64Exp w ≠ 0x7FF) :
    |(signedUnits w : ℚ)| ≤ maxUnits := by
  rw [← Int.cast_abs, Int.abs_eq_natAbs, natAbs_signedUnits]
  exact_mod_cast f64Units_le_maxUnits h

theorem absUnits_le_maxUnits {q : ℚ} {a b : Word64} (ha : f64Exp a ≠ 0x7FF) (hb : f64Exp b ≠ 0x7FF)
    (haq : (signedUnits a : ℚ) / 2 ^ 1074 ≤ q) (hqb : q ≤ (signedUnits b : ℚ) / 2 ^ 1074) :
    absUnits q ≤ maxUnits := by
  have hpos : (0 : ℚ) < 2 ^ 1074 := by positivity
  rw [div_le_iff₀ hpos] at haq
  rw [le_div_iff₀ hpos] at hqb
  rw [absUnits, ← abs_of_pos hpos, ← abs_mul]
  exact abs_le.mpr ⟨(neg_le_of_abs_le (abs_signedUnits_le ha)).trans haq,
    hqb.trans (le_of_abs_le (abs_signedUnits_le hb))⟩

/-- Settles O19: `val` by the cases of the exponent field; `fl64 q` rounds `|q|` on the grid of its binade, and no
finite word is nearer. -/
theorem fl64IsNearestEven : Obligations.Fl64IsNearestEven := by
  refine ⟨fun w => ?_, fl64_zero, fun q a b qa qb ha hb haq hqb => ?_⟩
  · dsimp only
    rw [← f64Exp_eq, ← f64Frac_eq]
    refine ⟨fun he hf => ?_, fun he hf => ?_, val_subnormal, val_normal⟩
    · rw [val_of_specialExp he, if_neg hf]
    · rw [val_of_specialExp he, if_pos hf]
  · obtain ⟨hafin, rfl⟩ := val_eq_num_iff.mp ha
    obtain ⟨hbfin, rfl⟩ := val_eq_num_iff.mp hb
    have hmax := absUnits_le_maxUnits hafin hbfin haq hqb
    refine ⟨_, val_of_finite (f64Exp_fl64 hmax), fun w v hw => ?_, fun w v hw hne htie => ?_⟩
    · obtain ⟨-, rfl⟩ := val_eq_num_iff.mp hw
      exact fl64_nearest hmax w
    · obtain ⟨-, rfl⟩ := val_eq_num_iff.mp hw
      exact getLsbD_fl64_of_tie hmax (fun h => hne (by rw [h])) htie

end Sys2Proof.Proofs.Numbers
end

section
/-! PROOFS. The host bus port (20_memory.md R61 to R70): the accepted accesses with what each addresses, and the value
of a read of PHASE_MEM, CODE_MEM and PACK_MEM while a command runs (10_state.md R43; 70_reset_and_hazards.md R216). -/

namespace Sys2Proof.Proofs.Bus

open Sys2Proof Sys2Proof.Machine

/-! ### The register table (10_state.md R23) -/

theorem mem_allRegs (r : Reg) : r ∈ allRegs := by cases r <;> decide

theorem regOffset_injective : Function.Injective regOffset := by
  have hinj : ∀ r ∈ allRegs, ∀ r' ∈ allRegs, regOffset r = regOffset r' → r = r' := by decide
  exact fun r r' => hinj r (mem_allRegs r) r' (mem_allRegs r')

theorem regOffset_aligned (r : Reg) : regOffset r < 0x1000 ∧ regOffset r % 4 = 0 := by
  cases r <;> decide

theorem regAt_eq_some {offset : Nat} {r : Reg} : regAt offset = some r ↔ regOffset r = offset := by
  constructor
  · intro h
    simpa using List.find?_some h
  · rintro rfl
    obtain ⟨r', hr'⟩ : ∃ r', regAt (regOffset r) = some r' := by
      rw [← Option.isSome_iff_exists, regAt, List.find?_isSome]
      exact ⟨r, mem_allRegs r, beq_self_eq_true _⟩
    have heq : regOffset r' = regOffset r := by simpa using List.find?_some hr'
    rw [hr', regOffset_injective heq]

/-! ### The address map (20_memory.md R61 to R66) -/

/-- The accesses R61 to R66 accept, with what each addresses. -/
def Accepts (c : Config.Caps) (w : Width) (a : Nat) : BusTarget → Prop
  | .reg r => w = .w32 ∧ a = regOffset r
  | .phase i high => w = .w32 ∧ a = phaseAddr i + (if high then 4 else 0) ∧ i < c.phaseEntries
  | .code i => w = .w32 ∧ a = codeAddr i ∧ i < c.codeEntries
  | .pack k n => n = widthBytes w ∧ a = packAddr k ∧ a % n = 0 ∧ k + n ≤ c.packBytes

/-- R61's window bases as numbers. -/
theorem bases_eq : phaseBase = 0x10000000 ∧ codeBase = 0x20000000 ∧ packBase = 0x30000000 :=
  ⟨rfl, rfl, rfl⟩

/-- The bounds of R7 as linear facts. -/
theorem caps_bounds {c : Config.Caps} (h : capsWellFormed c = true) :
    c.phaseEntries ≤ 2 ^ 25 ∧ c.codeEntries ≤ 2 ^ 26 ∧ c.packBytes ≤ 2 ^ 28 ∧ c.packBytes % 4 = 0 := by
  simp only [capsWellFormed, capsPhaseOk, capsCodeOk, capsPackOk, Bool.and_eq_true, decide_eq_true_eq,
    beq_iff_eq] at h
  omega

theorem widthBytes_bounds (w : Width) : 1 ≤ widthBytes w ∧ widthBytes w ≤ 4 := by cases w <;> decide

section
variable {c : Config.Caps} {w : Width} {addr : Word} {tg : BusTarget}

theorem accepts_of_busTarget (h : busTarget c w addr = some tg) : Accepts c w addr.toNat tg := by
  obtain ⟨hphaseBase, hcodeBase, hpackBase⟩ := bases_eq
  dsimp only [busTarget] at h
  split_ifs at h with hreg hw hphase hok hcode hok hpack hok
  · obtain ⟨r, hr, rfl⟩ := Option.map_eq_some_iff.1 h
    exact ⟨hw.1, (regAt_eq_some.1 hr).symm⟩
  · cases h
    refine ⟨hok.1, ?_, by omega⟩
    simp only [phaseAddr, beq_iff_eq]
    split <;> omega
  · cases h
    refine ⟨hok.1, ?_, by omega⟩
    simp only [codeAddr]
    omega
  · cases h
    exact ⟨rfl, (Nat.add_sub_of_le hpack.1).symm, hok⟩

theorem busTarget_of_accepts (hc : capsWellFormed c = true) (h : Accepts c w addr.toNat tg) :
    busTarget c w addr = some tg := by
  obtain ⟨hphase, hcode, hpack, -⟩ := caps_bounds hc
  obtain ⟨hphaseBase, hcodeBase, hpackBase⟩ := bases_eq
  dsimp only [busTarget]
  cases tg with
  | reg r =>
    obtain ⟨rfl, ha⟩ := h
    obtain ⟨hlt, hmod⟩ := regOffset_aligned r
    rw [ha, if_pos hlt, if_pos ⟨rfl, hmod⟩, regAt_eq_some.2 rfl]
    rfl
  | phase i high =>
    obtain ⟨rfl, ha, hi⟩ := h
    simp only [phaseAddr] at ha
    rw [if_neg (by omega), if_pos (by split at ha <;> omega),
      if_pos ⟨rfl, by split at ha <;> omega, by split at ha <;> omega⟩]
    cases high <;> simp at ha ⊢ <;> omega
  | code i =>
    obtain ⟨rfl, ha, hi⟩ := h
    simp only [codeAddr] at ha
    rw [if_neg (by omega), if_neg (by omega), if_pos (by omega), if_pos ⟨rfl, by omega, by omega⟩,
      show (addr.toNat - codeBase) / 4 = i by omega]
  | pack k n =>
    obtain ⟨rfl, ha, hmod, hle⟩ := h
    have hpos := widthBytes_bounds w
    simp only [packAddr] at ha
    rw [if_neg (by omega), if_neg (by omega), if_neg (by omega), if_pos (by omega),
      if_pos ⟨hmod, by omega⟩, show addr.toNat - packBase = k by omega]

end

/-! ### Bus errors (O47) -/

section
variable {s : State} {w : Width} {addr : Word} {tg : BusTarget}

theorem busRead_of_target (h : busTarget s.caps w addr = some tg) :
    busRead w addr s = .ok (readTarget tg s) := busRead_ok.2 ⟨tg, h, rfl⟩

theorem busRead_error_iff : busRead w addr s = .error (.busReadError 0) ↔
    busTarget s.caps w addr = none := by
  unfold busRead
  cases busTarget s.caps w addr <;> simp

theorem busWrite_error_iff (v : Word) : busWrite w addr v s = .error .busWriteError ↔
    busTarget s.caps w addr = none := by
  unfold busWrite
  cases busTarget s.caps w addr with
  | none => simp
  | some t => cases h : targetRaces s t <;> simp [h]

end

theorem mem_map_regOffset {n : Nat} {r : Reg} :
    (n, r) ∈ allRegs.map (fun r => (regOffset r, r)) ↔ n = regOffset r := by
  simp only [List.mem_map, Prod.mk.injEq, ↓existsAndEq, mem_allRegs, and_true, true_and, eq_comm]

/-- The accepted accesses as address ranges, under the bounds of R7. -/
theorem exists_accepts_iff {c : Config.Caps} (hc : capsWellFormed c = true) (w : Width) (a : Nat) :
    (∃ tg, Accepts c w a tg) ↔
      (w = .w32 ∧ ∃ r, a = regOffset r) ∨
      (w = .w32 ∧ a % 4 = 0 ∧ 0x10000000 ≤ a ∧ a < 0x10000000 + 8 * c.phaseEntries) ∨
      (w = .w32 ∧ a % 4 = 0 ∧ 0x20000000 ≤ a ∧ a < 0x20000000 + 4 * c.codeEntries) ∨
      (a % widthBytes w = 0 ∧ 0x30000000 ≤ a ∧ a < 0x30000000 + c.packBytes) := by
  obtain ⟨-, -, -, hpack⟩ := caps_bounds hc
  obtain ⟨hphaseBase, hcodeBase, hpackBase⟩ := bases_eq
  constructor
  · rintro ⟨tg, h⟩
    cases tg with
    | reg r => exact .inl ⟨h.1, r, h.2⟩
    | phase i high =>
      obtain ⟨hw, ha, hi⟩ := h
      refine .inr (.inl ⟨hw, ?_⟩)
      simp only [phaseAddr] at ha
      split at ha <;> omega
    | code i =>
      obtain ⟨hw, ha, hi⟩ := h
      refine .inr (.inr (.inl ⟨hw, ?_⟩))
      simp only [codeAddr] at ha
      omega
    | pack k n =>
      obtain ⟨rfl, ha, hmod, hle⟩ := h
      have hpos := widthBytes_bounds w
      refine .inr (.inr (.inr ⟨hmod, ?_⟩))
      simp only [packAddr] at ha
      omega
  · rintro (⟨hw, r, hr⟩ | ⟨hw, hmod, hlo, hhi⟩ | ⟨hw, hmod, hlo, hhi⟩ | ⟨hmod, hlo, hhi⟩)
    · exact ⟨.reg r, hw, hr⟩
    · refine ⟨.phase ((a - phaseBase) / 8) (decide (a % 8 = 4)), hw, ?_, by omega⟩
      simp only [phaseAddr, decide_eq_true_eq]
      split <;> omega
    · refine ⟨.code ((a - codeBase) / 4), hw, ?_, by omega⟩
      simp only [codeAddr]
      omega
    · refine ⟨.pack (a - packBase) (widthBytes w), rfl, (Nat.add_sub_of_le (by omega)).symm, hmod, ?_⟩
      cases w <;> simp only [widthBytes] at * <;> omega

theorem busTarget_eq_none_iff {c : Config.Caps} (hc : capsWellFormed c = true) {w : Width} {addr : Word} :
    busTarget c w addr = none ↔ ¬∃ tg, Accepts c w addr.toNat tg := by
  rw [← Option.not_isSome_iff_eq_none, Option.isSome_iff_exists, not_iff_not]
  exact exists_congr fun tg => ⟨accepts_of_busTarget, busTarget_of_accepts hc⟩

/-- Settles O47: the accepted accesses are the ones of `Accepts`, and an access outside them has no target. -/
theorem busErrorExactlyOutsideTheMap : Obligations.BusErrorExactlyOutsideTheMap := by
  intro s w a v hc registers accepted
  have htable : ∀ r, (a.toNat, r) ∈ registers ↔ a.toNat = regOffset r := fun r => mem_map_regOffset
  have haccepted : accepted ↔ ∃ tg, Accepts s.caps w a.toNat tg := by
    rw [exists_accepts_iff hc]
    simp only [accepted, htable]
    exact Iff.rfl
  rw [haccepted, busRead_error_iff, busWrite_error_iff, busTarget_eq_none_iff hc]
  refine ⟨Iff.rfl, Iff.rfl, fun r hw hr => ?_⟩
  have htarget : busTarget s.caps w a = some (.reg r) :=
    busTarget_of_accepts hc ⟨hw, (htable r).1 hr⟩
  exact ⟨busRead_of_target htarget, busWrite_ok.2 ⟨_, htarget, rfl, rfl⟩⟩

/-! ### Free and stored values of a read (O52) -/

/-- Command `i` is running. -/
def runs (s : State) (i : Instr) : Bool :=
  match s.engine with
  | .running (.command c) _ => c == i
  | .running .illegal _ => false
  | .idle => false

/-- R71, R216: the destination ranges, buffer by buffer. -/
theorem engineWrites_eq (s : State) (j : Nat) :
    s.engineWrites .phase j = (runs s .dequantize && decide (j < s.act.pixels)) ∧
    s.engineWrites .code j = ((runs s .quantize || runs s .unpack) && decide (j < s.act.pixels)) ∧
    s.engineWrites .pack j = (runs s .pack && decide (j < s.act.packedBytes)) := by
  unfold State.engineWrites runs
  cases s.engine with
  | idle => exact ⟨rfl, rfl, rfl⟩
  | running op snap =>
    cases op with
    | illegal => exact ⟨rfl, rfl, rfl⟩
    | command i => cases i <;> exact ⟨rfl, rfl, rfl⟩

section
variable {s : State} {j : Nat}

theorem readTarget_phase_free (high : Bool) (h : s.engineWrites .phase j = true ∨ phaseWord? s.mem j = none) :
    readTarget (.phase j high) s = (halfOf high s.drawn, s.drewOne) := by
  cases hw : s.engineWrites .phase j with
  | true => simp [readTarget, targetWritten, hw]
  | false =>
    have hnone : phaseWord? s.mem j = none := by simpa [hw] using h
    simp [readTarget, targetWritten, hw, phaseRead, hnone]

theorem readTarget_phase_stored (high : Bool) {x : Word64} (hw : s.engineWrites .phase j = false)
    (hx : phaseWord? s.mem j = some x) : readTarget (.phase j high) s = (halfOf high x, s) := by
  simp [readTarget, targetWritten, hw, phaseRead_stored hx]

theorem readTarget_code_free (h : s.engineWrites .code j = true ∨ codeWord? s.mem j = none) :
    readTarget (.code j) s = (s.drawn.setWidth 32, s.drewOne) := by
  cases hw : s.engineWrites .code j with
  | true => simp [readTarget, targetWritten, hw]
  | false =>
    have hnone : codeWord? s.mem j = none := by simpa [hw] using h
    simp [readTarget, targetWritten, hw, codeRead, hnone]

theorem readTarget_code_stored {x : Word} (hw : s.engineWrites .code j = false)
    (hx : codeWord? s.mem j = some x) : readTarget (.code j) s = (x, s) := by
  simp [readTarget, targetWritten, hw, codeRead_stored hx]

end

theorem hostPackLanes_lt (n : Nat) : ∀ (k : Nat) (s : State), (hostPackLanes k n s).1 < 256 ^ n := by
  induction n with
  | zero => intro k s; exact Nat.one_pos
  | succ n ih =>
    intro k s
    have hlane := (hostPackByte k s).1.isLt
    have hrest := ih (k + 1) (hostPackByte k s).2
    simp only [hostPackLanes, Nat.pow_succ]
    omega

/-- The bus data of a PACK read is its lanes: they fit the word. -/
theorem toNat_readTarget_pack (k : Nat) (s : State) {n : Nat} (h : n ≤ 4) :
    (readTarget (.pack k n) s).1.toNat = (hostPackLanes k n s).1 := by
  refine Nat.mod_eq_of_lt (Nat.lt_of_lt_of_le (hostPackLanes_lt n k s) ?_)
  exact Nat.pow_le_pow_right (by decide) h

theorem extractLsb'_byte (v : Word) (m : Nat) :
    (v.extractLsb' (8 * m) 8).toNat = v.toNat / 256 ^ m % 256 := by
  rw [BitVec.extractLsb'_toNat, Nat.shiftRight_eq_div_pow, Nat.pow_mul]

/-- A PACK read draws once for each free byte it covers, and each lane holds its byte. -/
theorem readTarget_pack (k : Nat) (s : State) {n : Nat} (h : n ≤ 4) :
    (readTarget (.pack k n) s).2 = { s with draws := s.draws + packDraws s k n } ∧
    (readTarget (.pack k n) s).1.toNat < 2 ^ (8 * n) ∧
    ∀ m < n, (readTarget (.pack k n) s).1.extractLsb' (8 * m) 8 =
      if packFree s (k + m) then (Config.freeValue (s.draws + packDraws s k m)).setWidth 8
      else (packByte? s.mem (k + m)).getD 0 := by
  obtain ⟨hstate, hlanes⟩ := hostPackLanes_eq s n k s.draws
  refine ⟨hstate, ?_, fun m hm => BitVec.eq_of_toNat_eq ?_⟩
  · rw [toNat_readTarget_pack k s h, Nat.pow_mul]
    exact hostPackLanes_lt n k s
  · rw [extractLsb'_byte, toNat_readTarget_pack k s h]
    exact (hlanes m hm).trans (apply_ite BitVec.toNat _ _ _).symm

/-- Settles O52: the ranges are those of `State.engineWrites`, and each buffer's read is free or stored by it and by
the mark. -/
theorem unspecifiedReadsAreFree : Obligations.UnspecifiedReadsAreFree := by
  intro s w a j runs' phaseEarly codeEarly free
  obtain ⟨hphase, hcode, -⟩ := engineWrites_eq s j
  have hfree : free = packFree s := by
    funext k
    obtain ⟨-, -, hpack⟩ := engineWrites_eq s k
    exact congrArg (· || _) hpack.symm
  change s.engineWrites .phase j = phaseEarly at hphase
  change s.engineWrites .code j = codeEarly at hcode
  rw [← hphase, ← hcode, hfree]
  refine ⟨fun high htg => ⟨fun h => ?_, fun h x hx => ?_⟩, fun htg => ⟨fun h => ?_, fun h x hx => ?_⟩,
    fun n htg => ?_⟩
  · exact (busRead_of_target htg).trans (congrArg _ (readTarget_phase_free high h))
  · exact (busRead_of_target htg).trans (congrArg _ (readTarget_phase_stored high h hx))
  · exact (busRead_of_target htg).trans (congrArg _ (readTarget_code_free h))
  · exact (busRead_of_target htg).trans (congrArg _ (readTarget_code_stored h hx))
  · have hn : n ≤ 4 := (accepts_of_busTarget htg).1 ▸ (widthBytes_bounds w).2
    obtain ⟨hstate, hlt, hlanes⟩ := readTarget_pack j s hn
    refine ⟨(readTarget (.pack j n) s).1, ?_, hlt, fun m hm h => ?_, fun m hm h x hx => ?_⟩
    · exact (busRead_of_target htg).trans (congrArg (fun t => Except.ok (_, t)) hstate)
    · rw [hlanes m hm, if_pos h]
      rfl
    · rw [hlanes m hm, h, hx]
      rfl

end Sys2Proof.Proofs.Bus
end

section
/-! PROOFS. What one step can do (10_state.md R42; 60_exceptions.md R186; 20_memory.md R62, R71): a command works on
its destination range or on the active profile and then completes; a host move reads, writes a register, or stores
words of a buffer. The frame statements and the invariants are read off these two lists. -/

namespace Sys2Proof.Proofs.Steps

open Sys2Proof Sys2Proof.Machine Sys2Proof.Proofs.Bus

/-! ### Stores to a buffer -/

/-- Bus address of word `i` of a buffer (20_memory.md R63 to R65). -/
def wordAddr : Buffer → Nat → Nat
  | .phase => phaseAddr
  | .code => codeAddr
  | .pack => packAddr

/-- The number of bytes under one written-since-reset mark (10_state.md R39 to R41). -/
def wordBytes : Buffer → Nat
  | .phase => 8
  | .code => 4
  | .pack => 1

/-- The number of words a buffer has (00_scope.md R7). -/
def bufferWords (c : Config.Caps) : Buffer → Nat
  | .phase => c.phaseEntries
  | .code => c.codeEntries
  | .pack => c.packBytes

/-- `t` is `s` after free values drawn and after stores to the first `n` words of buffer `b`. -/
inductive RangeWrites (b : Buffer) (n : Nat) (s : State) : State → Prop where
  | refl : RangeWrites b n s s
  | draw {t : State} (d : Nat) : RangeWrites b n s t → RangeWrites b n s { t with draws := d }
  | store {t : State} {i : Nat} (v : Nat) : i < n → RangeWrites b n s t →
      RangeWrites b n s { t with mem := memWrite t.mem (wordAddr b i) (wordBytes b) v }

section
variable {b : Buffer} {n : Nat} {s t u : State}

theorem rangeWrites_frame (h : RangeWrites b n s t) : ∃ m d, t = { s with mem := m, draws := d } := by
  induction h with
  | refl => exact ⟨_, _, rfl⟩
  | draw _ _ ih => obtain ⟨_, _, rfl⟩ := ih; exact ⟨_, _, rfl⟩
  | store _ _ _ ih => obtain ⟨_, _, rfl⟩ := ih; exact ⟨_, _, rfl⟩

theorem rangeWrites_drawsOnly (h : RangeWrites b n s t) (hu : drawsOnly t u) : RangeWrites b n s u := by
  obtain ⟨d, rfl⟩ := hu
  exact h.draw d

theorem rangeWrites_phaseWrite {i : Nat} (w : Word64) (hi : i < n) (h : RangeWrites .phase n s t) :
    RangeWrites .phase n s (phaseWrite i w t) := h.store w.toNat hi

theorem rangeWrites_codeWrite {i : Nat} (c : Word) (hi : i < n) (h : RangeWrites .code n s t) :
    RangeWrites .code n s (codeWrite i c t) := h.store c.toNat hi

theorem rangeWrites_packWrite {k : Nat} (x : Byte) (hk : k < n) (h : RangeWrites .pack n s t) :
    RangeWrites .pack n s (packWrite k x t) := by
  have hx : packWrite k x t = { t with mem := memWrite t.mem (packAddr k) 1 x.toNat } := by
    simp [packWrite, memWrite]
  exact hx ▸ h.store x.toNat hk

theorem rangeWrites_scrambleCodes (h : RangeWrites .code n s t) :
    RangeWrites .code n s (scrambleCodes n t) :=
  forRange_induction n (fun _ hi _ ht => rangeWrites_codeWrite _ hi (ht.draw _)) h

theorem rangeWrites_scramblePhases (h : RangeWrites .phase n s t) :
    RangeWrites .phase n s (scramblePhases n t) :=
  forRange_induction n (fun _ hi _ ht => rangeWrites_phaseWrite _ hi (ht.draw _)) h

theorem rangeWrites_scramblePacked (h : RangeWrites .pack n s t) :
    RangeWrites .pack n s (scramblePacked n t) :=
  forRange_induction n (fun _ hi _ ht => rangeWrites_packWrite _ hi (ht.draw _)) h

theorem rangeWrites_writeCodes {cs : List Word} (hlen : cs.length = n) (h : RangeWrites .code n s t) :
    RangeWrites .code n s (writeCodes cs t) :=
  forRange_induction _ (fun _ hi _ ht => rangeWrites_codeWrite _ (hlen ▸ hi) ht) h

theorem rangeWrites_writePhases {ws : List Word64} (hlen : ws.length = n) (h : RangeWrites .phase n s t) :
    RangeWrites .phase n s (writePhases ws t) :=
  forRange_induction _ (fun _ hi _ ht => rangeWrites_phaseWrite _ (hlen ▸ hi) ht) h

theorem rangeWrites_writePacked (p : Profile) (cs : List Word) (h : RangeWrites .pack p.packedBytes s t) :
    RangeWrites .pack p.packedBytes s (writePacked p cs t) :=
  forRange_induction _ (fun _ hk _ ht => rangeWrites_packWrite _ hk ht) h

theorem flip_lt {n i : Nat} (flip : Bool) (h : i < n) : (if flip then n - 1 - i else i) < n := by
  split <;> omega

/-- R151: a stream position of the frame has its source index in the frame. -/
theorem sourceIndex_lt (p : Profile) {i : Nat} (h : i < p.pixels) : sourceIndex p i < p.pixels := by
  have hwidth : 0 < p.width := Nat.pos_of_mul_pos_right (Nat.zero_lt_of_lt h)
  have hrow := flip_lt p.rowFlip (Nat.div_lt_of_lt_mul h)
  have hcol := flip_lt p.colFlip (Nat.mod_lt i hwidth)
  calc sourceIndex p i < _ * p.width + p.width := Nat.add_lt_add_left hcol _
    _ = _ := (Nat.succ_mul _ _).symm
    _ ≤ p.height * p.width := Nat.mul_le_mul_right _ hrow
    _ = p.pixels := Nat.mul_comm _ _

theorem rangeWrites_writeExtracted (p : Profile) (bs : List Byte) (h : RangeWrites .code p.pixels s t) :
    RangeWrites .code p.pixels s (writeExtracted p bs t) :=
  forRange_induction _ (fun _ hi _ ht => rangeWrites_codeWrite _ (sourceIndex_lt p hi) ht) h

/-- A store of several bytes to PACK_MEM is one store per byte. -/
theorem rangeWrites_packBytes (len : Nat) : ∀ {k : Nat} {t : State} (v : Nat), k + len ≤ n →
    RangeWrites .pack n s t →
    RangeWrites .pack n s { t with mem := memWrite t.mem (packAddr k) len v } := by
  induction len with
  | zero => intro k t v _ h; exact h
  | succ len ih =>
    intro k t v hk h
    exact ih (k := k + 1) (v / 256) (by omega) (rangeWrites_packWrite (BitVec.ofNat 8 v) (by omega) h)

end

/-! ### Commands -/

/-- What a command can have done when it comes to its completion. -/
inductive EngineWork (s : State) : Op → State → Prop where
  | nothing (op : Op) : EngineWork s op s
  | wrote {op : Op} {b : Buffer} {u : State} : s.profileValid = true → opTarget op = some b →
      RangeWrites b (rangeLength s.act b) s u → EngineWork s op u
  | invalidated : EngineWork s (.command .validate) (invalidateProfile s)
  | latched : EngineWork s (.command .validate) (latchProfile s.snap.cfg s)

/-- R186: `t` completes command `op` begun in `s`; a completion without error has a clear context. -/
inductive Completes (s : State) (op : Op) : State → Prop where
  | intro {k : ErrKind} {index : Word} {expected actual : Word64} {u : State} :
      (k = .noError → index = 0 ∧ expected = 0 ∧ actual = 0) → EngineWork s op u →
      Completes s op (completeWith k index expected actual u)

section
variable {s u : State} {op : Op}

theorem engineWork_frame (h : EngineWork s op u) :
    op = .command .validate ∨ ∃ m d, u = { s with mem := m, draws := d } := by
  cases h with
  | nothing => exact .inr ⟨_, _, rfl⟩
  | wrote _ _ hw => exact .inr (rangeWrites_frame hw)
  | invalidated => exact .inl rfl
  | latched => exact .inl rfl

theorem completes_ok (h : EngineWork s op u) : Completes s op (completeOk u) :=
  .intro (fun _ => ⟨rfl, rfl, rfl⟩) h

theorem completes_error {k : ErrKind} (hk : k ≠ .noError) (index : Nat) (expected actual : Word64)
    (h : EngineWork s op u) : Completes s op (raiseError k index expected actual u) :=
  .intro (fun h => absurd h hk) h

theorem completes_profileGate {k : State → State} (h : s.profileValid = true → Completes s op (k s)) :
    Completes s op (profileGate s k) := by
  obtain ⟨hv, hk⟩ | ⟨-, hk⟩ := profileGate_cases s k
  · exact hk ▸ h hv
  · exact hk ▸ completes_error (by decide) _ _ _ (.nothing op)

theorem completes_shapeCheck {k : State → State} (h : Completes s op (k s)) :
    Completes s op (shapeCheck s k) := by
  obtain ⟨-, hk⟩ | ⟨-, hk⟩ := shapeCheck_cases s k
  · exact hk ▸ h
  · exact hk ▸ completes_error (by decide) _ _ _ (.nothing op)

theorem completes_lengthCheck {k : State → State} (h : Completes s op (k s)) :
    Completes s op (lengthCheck s k) := by
  obtain ⟨-, hk⟩ | ⟨-, hk⟩ := lengthCheck_cases s k
  · exact hk ▸ h
  · exact hk ▸ completes_error (by decide) _ _ _ (.nothing op)

theorem checkEach_length {α β ε : Type} {f : α → Except ε β} {i : Nat} {as : List α} {bs : List β}
    (h : checkEach f i as = .ok bs) : bs.length = as.length :=
  (checkEach_ok.1 h).length_eq.symm

/-- A command that reads its source range, checks every element, and then draws or writes its destination
range `b`. -/
theorem completes_finishElements {α β : Type} {rd : Nat → State → α × State}
    {check : α → Except (Word64 × Word64) β} {k : ErrKind} {n : Nat} {b : Buffer}
    {scramble : State → State} {write : List β → State → State}
    (hk : k ≠ .noError) (hvalid : s.profileValid = true) (htarget : opTarget op = some b)
    (hread : ∀ i t, drawsOnly t (rd i t).2)
    (hscramble : ∀ t, RangeWrites b (rangeLength s.act b) s t →
      RangeWrites b (rangeLength s.act b) s (scramble t))
    (hwrite : ∀ bs t, bs.length = n → RangeWrites b (rangeLength s.act b) s t →
      RangeWrites b (rangeLength s.act b) s (write bs t)) :
    Completes s op (finishElements k (checkEach check 0 (readFrom rd 0 n s).1) scramble write
      (readFrom rd 0 n s).2) := by
  have hdrawn := rangeWrites_drawsOnly (b := b) (n := rangeLength s.act b) .refl
    (readFrom_drawsOnly hread n 0 s)
  obtain ⟨e, -, he⟩ | ⟨bs, hbs, he⟩ := finishElements_cases k
    (checkEach check 0 (readFrom rd 0 n s).1) scramble write (readFrom rd 0 n s).2
  · exact he ▸ completes_error hk _ _ _ (.wrote hvalid htarget (hscramble _ hdrawn))
  · have hlen : bs.length = n := (checkEach_length hbs).trans (length_readFrom rd n 0 s)
    exact he ▸ completes_ok (.wrote hvalid htarget (hwrite bs _ hlen hdrawn))

theorem completes_validate (s : State) : Completes s (.command .validate) (validateCommand s) := by
  unfold validateCommand
  split
  · exact completes_error (by decide) _ _ _ .invalidated
  · exact completes_ok .latched

theorem completes_quantize (s : State) : Completes s (.command .quantize) (quantizeCommand s) :=
  completes_profileGate fun hvalid => completes_shapeCheck <|
    completes_finishElements (by decide) hvalid rfl phaseRead_drawsOnly
      (fun _ => rangeWrites_scrambleCodes) (fun _ _ => rangeWrites_writeCodes)

theorem completes_dequantize (s : State) : Completes s (.command .dequantize) (dequantizeCommand s) :=
  completes_profileGate fun hvalid => completes_shapeCheck <|
    completes_finishElements (by decide) hvalid rfl codeRead_drawsOnly
      (fun _ => rangeWrites_scramblePhases)
      (fun _ _ hlen => rangeWrites_writePhases ((List.length_map _).trans hlen))

theorem completes_pack (s : State) : Completes s (.command .pack) (packCommand s) :=
  completes_profileGate fun hvalid => completes_shapeCheck <|
    completes_finishElements (by decide) hvalid rfl codeRead_drawsOnly
      (fun _ => rangeWrites_scramblePacked) (fun cs _ _ => rangeWrites_writePacked s.act cs)

theorem completes_unpack (s : State) : Completes s (.command .unpack) (unpackCommand s) :=
  completes_profileGate fun hvalid => completes_lengthCheck <|
    completes_ok <| .wrote hvalid rfl <| rangeWrites_writeExtracted s.act _ <|
      rangeWrites_drawsOnly .refl (readFrom_drawsOnly packRead_drawsOnly _ _ s)

/-- Every command completes in the step that runs it. -/
theorem exec_next {i : Instr} {s t : State} (h : exec i s = .next t) : Completes s (.command i) t := by
  cases i <;> cases h
  case validate => exact completes_validate s
  case quantize => exact completes_quantize s
  case dequantize => exact completes_dequantize s
  case pack => exact completes_pack s
  case unpack => exact completes_unpack s

end

/-! ### Moves -/

/-- What a host move can do to the block: reads and stores in a buffer's backed part, or one register write. -/
inductive HostWork (s : State) : State → Prop where
  | accessed {b : Buffer} {u : State} : RangeWrites b (bufferWords s.caps b) s u → HostWork s u
  | wroteReg (r : Reg) (v : Word) : HostWork s (writeReg r v s)

section
variable {s t : State}

theorem step_of_turn {x : Turn} {ts : List Turn} (h : s.turns = x :: ts) :
    step s = moveOf x { s with turns := ts } := by
  simp [step, nextMove, h]

theorem step_of_no_turn (h : s.turns = []) : step s = if s.busy then engineMove s else hostMove s := by
  simp [step, nextMove, h]

theorem engineMove_of_command {i : Instr} {snap : Snap} (h : s.engine = .running (.command i) snap) :
    engineMove s = exec i s := by
  simp [engineMove, h]

theorem busy_of_running {op : Op} {snap : Snap} (h : s.engine = .running op snap) : s.busy = true := by
  simp [State.busy, h, engineBusy]

/-- Everything a step can do: one move of one of the three agents, on the schedule with that turn used up. -/
theorem step_next (h : step s = .next t) : ∃ ts,
    (s.turns = .reset :: ts ∧ t = resetInput { s with turns := ts }) ∨
      engineMove { s with turns := ts } = .next t ∨ hostMove { s with turns := ts } = .next t := by
  obtain ⟨x, ts, hts, hx⟩ | ⟨hts, -, he⟩ | ⟨hts, -, hh⟩ := step_cases s
  · refine ⟨ts, ?_⟩
    rw [hx] at h
    cases x with
    | host => exact .inr (.inr h)
    | engine => exact .inr (.inl h)
    | reset => cases h; exact .inl ⟨hts, rfl⟩
  · exact ⟨s.turns, .inr (.inl (he ▸ h))⟩
  · exact ⟨s.turns, .inr (.inr (hh ▸ h))⟩

/-- Everything the Engine's move can do: nothing while IDLE, else the completion of the running command. -/
theorem engineMove_next (h : engineMove s = .next t) :
    t = s ∨ ∃ op snap, s.engine = .running op snap ∧ Completes s op t := by
  obtain ⟨-, he⟩ | ⟨i, snap, hi, he⟩ | ⟨snap, hi, he⟩ := engineMove_cases s <;> rw [he] at h
  · cases h
    exact .inl rfl
  · exact .inr ⟨_, snap, hi, exec_next h⟩
  · cases h
    exact .inr ⟨_, snap, hi, completes_error (by decide) _ _ _ (.nothing _)⟩

theorem hostWork_busWrite {w : Width} {addr v : Word} (h : busWrite w addr v s = .ok t) : HostWork s t := by
  obtain ⟨tg, htg, -, rfl⟩ := busWrite_ok.1 h
  have hacc := accepts_of_busTarget htg
  cases tg with
  | reg r => exact .wroteReg r v
  | phase i high =>
    obtain ⟨-, -, hi⟩ := hacc
    exact .accessed <| rangeWrites_phaseWrite _ hi <|
      rangeWrites_drawsOnly .refl (phaseRead_drawsOnly i s)
  | code i =>
    obtain ⟨-, -, hi⟩ := hacc
    exact .accessed (rangeWrites_codeWrite v hi .refl)
  | pack k n =>
    obtain ⟨-, -, -, hle⟩ := hacc
    exact .accessed (rangeWrites_packBytes n _ hle .refl)

theorem hostWork_busRead {w : Width} {addr : Word} {r : Word × State} (h : busRead w addr s = .ok r) :
    HostWork s r.2 := by
  obtain ⟨tg, -, rfl⟩ := busRead_ok.1 h
  exact .accessed (b := .phase) (rangeWrites_drawsOnly .refl (readTarget_drawsOnly tg s))

theorem hostWork_refl : HostWork s s := .accessed (b := .phase) .refl

/-- Everything the Host's move can do: an access, and the Host's own bookkeeping. -/
theorem hostMove_work (h : hostMove s = .next t) : ∃ u agent, HostWork s u ∧ t = { u with host := agent } := by
  obtain rfl | ⟨w, addr, v, u, hu, rfl⟩ | ⟨w, addr, r, x, hr, rfl⟩ | ⟨addr, r, hr, rfl | rfl⟩ | ⟨n, rfl⟩ :=
    hostMove_next h
  · exact ⟨_, _, hostWork_refl, rfl⟩
  · exact ⟨u, _, hostWork_busWrite hu, rfl⟩
  · exact ⟨r.2, _, hostWork_busRead hr, rfl⟩
  · exact ⟨r.2, _, hostWork_busRead hr, rfl⟩
  · exact ⟨r.2, _, hostWork_busRead hr, rfl⟩
  · exact ⟨s, _, hostWork_refl, rfl⟩

end

/-! ### Frames -/

/-- Settles O3: a running Engine makes the move, and its move is the command's meaning. -/
theorem stepRunsTheCommand : Obligations.StepRunsTheCommand := by
  intro s i snap hrun
  constructor
  · intro hts
    rw [step_of_no_turn hts, if_pos (busy_of_running hrun), engineMove_of_command hrun]
  · intro ts hts
    rw [step_of_turn hts]
    exact engineMove_of_command (s := { s with turns := ts }) hrun

/-- Settles O14: a completion writes only the Engine's fields, and the work before it only memory and free values,
or the active profile under VALIDATE. -/
theorem commandsLeaveRegisters : Obligations.CommandsLeaveRegisters := by
  intro i s t h
  obtain ⟨-, hwork⟩ := exec_next h
  constructor
  · intro hi
    obtain hop | ⟨m, d, rfl⟩ := engineWork_frame hwork
    · exact absurd (Op.command.inj hop) hi
    · constructor <;> rfl
  · rintro rfl
    cases hwork with
    | nothing => simp
    | wrote _ htarget _ => cases htarget
    | invalidated => simp
    | latched => simp

/-- What a register write can do to the state: start or drop a command, clear STATUS bits, or store a setting. -/
theorem writeReg_cases (r : Reg) (v : Word) (s : State) :
    writeReg r v s = startCommand v s ∧ s.busy = false ∨
    writeReg r v s = statusWrite v s ∨
    ∃ overrun doneIe cfg srcRes srcLen, writeReg r v s =
      { s with overrun := overrun, doneIe := doneIe, cfg := cfg, srcRes := srcRes, srcLen := srcLen } := by
  cases r
  case cmd =>
    cases hbusy : s.busy with
    | true =>
      exact .inr (.inr ⟨true, s.doneIe, s.cfg, s.srcRes, s.srcLen, by simp [writeReg, cmdWrite, hbusy]⟩)
    | false => exact .inl ⟨by simp [writeReg, cmdWrite, hbusy], rfl⟩
  case status => exact .inr (.inl rfl)
  all_goals exact .inr (.inr ⟨_, _, _, _, _, rfl⟩)

/-- No register write reaches the active profile, the memory or the parameters. -/
theorem writeReg_frame (r : Reg) (v : Word) (s : State) :
    (writeReg r v s).act = s.act ∧ (writeReg r v s).packLen = s.packLen ∧
    (writeReg r v s).profileValid = s.profileValid ∧ (writeReg r v s).mem = s.mem ∧
    (writeReg r v s).caps = s.caps := by
  obtain ⟨h, -⟩ | h | ⟨_, _, _, _, _, h⟩ := writeReg_cases r v s <;> rw [h] <;>
    exact ⟨rfl, rfl, rfl, rfl, rfl⟩

/-- Settles O58: the Engine's other work, and every host access, leaves the active profile. -/
theorem onlyValidateChangesTheActiveProfile : Obligations.OnlyValidateChangesTheActiveProfile := by
  intro s t h
  obtain ⟨ts, ⟨hts, -⟩ | he | hh⟩ := step_next h
  · exact .inr (.inr ⟨ts, hts⟩)
  · obtain rfl | ⟨op, snap, hrun, ⟨-, hwork⟩⟩ := engineMove_next he
    · exact .inl ⟨rfl, rfl, rfl⟩
    · obtain rfl | ⟨m, d, rfl⟩ := engineWork_frame hwork
      · exact .inr (.inl ⟨snap, hrun, rfl⟩)
      · exact .inl ⟨rfl, rfl, rfl⟩
  · obtain ⟨u, agent, hwork, rfl⟩ := hostMove_work hh
    cases hwork with
    | accessed hw =>
      obtain ⟨m, d, rfl⟩ := rangeWrites_frame hw
      exact .inl ⟨rfl, rfl, rfl⟩
    | wroteReg r v =>
      obtain ⟨hact, hlen, hvalid, -, -⟩ := writeReg_frame r v { s with turns := ts }
      exact .inl ⟨hact, hlen, hvalid⟩

end Sys2Proof.Proofs.Steps
end

section
/-! PROOFS. The invariants of the Engine and of the storage (10_state.md R42, R43; 20_memory.md R61;
60_exceptions.md R182, R192): each holds after reset, and every step keeps it. -/

namespace Sys2Proof.Proofs.Invariants

open Sys2Proof Sys2Proof.Machine Sys2Proof.Proofs.Bus Sys2Proof.Proofs.Steps

/-! ### The Engine and the error context -/

theorem engineInv_resetWith (c : Config.Caps) : EngineInv (State.resetWith c) where
  done_idle _ := rfl
  busy_clear _ := rfl
  ok_clear _ := ⟨rfl, rfl, rfl⟩
  running_op _ _ h := nomatch h

section
variable {s t u : State}

/-- The invariant speaks of DONE, the error registers and the Engine only. -/
theorem engineInv_congr (h : EngineInv s) (hdone : t.done = s.done) (hengine : t.engine = s.engine)
    (herr : t.err = s.err) (hindex : t.errIndex = s.errIndex) (hexp : t.errExp = s.errExp)
    (hact : t.errAct = s.errAct) : EngineInv t where
  done_idle := by rw [hdone, hengine]; exact h.done_idle
  busy_clear := by rw [State.busy, hengine, herr]; exact h.busy_clear
  ok_clear := by rw [herr, hindex, hexp, hact]; exact h.ok_clear
  running_op := by rw [hengine]; exact h.running_op

theorem engineInv_startCommand (v : Word) (s : State) : EngineInv (startCommand v s) where
  done_idle h := nomatch h
  busy_clear _ := rfl
  ok_clear _ := ⟨rfl, rfl, rfl⟩
  running_op _ _ h := by cases h; rfl

theorem engineInv_completes {op : Op} (h : Completes s op t) : EngineInv t := by
  obtain ⟨hok, -⟩ := h
  exact ⟨fun _ => rfl, nofun, hok, nofun⟩

theorem engineInv_statusWrite (v : Word) (h : EngineInv s) : EngineInv (statusWrite v s) where
  done_idle hdone := h.done_idle (Bool.and_eq_true_iff.1 hdone).1
  busy_clear := h.busy_clear
  ok_clear := h.ok_clear
  running_op := h.running_op

theorem engineInv_writeReg (r : Reg) (v : Word) (h : EngineInv s) : EngineInv (writeReg r v s) := by
  obtain ⟨hw, -⟩ | hw | ⟨_, _, _, _, _, hw⟩ := writeReg_cases r v s <;> rw [hw]
  · exact engineInv_startCommand v s
  · exact engineInv_statusWrite v h
  · exact engineInv_congr h rfl rfl rfl rfl rfl rfl

theorem engineInv_hostWork (h : EngineInv s) (hu : HostWork s u) : EngineInv u := by
  cases hu with
  | accessed hw =>
    obtain ⟨m, d, rfl⟩ := rangeWrites_frame hw
    exact engineInv_congr h rfl rfl rfl rfl rfl rfl
  | wroteReg r v => exact engineInv_writeReg r v h

end

/-- Settles O56: a completion and a start establish the invariant, and every other move leaves its fields or
clears DONE. -/
theorem stepKeepsEngineInvariants : Obligations.StepKeepsEngineInvariants := by
  intro s t hinv h
  obtain ⟨ts, ⟨-, rfl⟩ | he | hh⟩ := step_next h
  · exact engineInv_congr (engineInv_resetWith s.caps) rfl rfl rfl rfl rfl rfl
  · obtain rfl | ⟨op, snap, -, hc⟩ := engineMove_next he
    · exact engineInv_congr hinv rfl rfl rfl rfl rfl rfl
    · exact engineInv_completes hc
  · obtain ⟨u, agent, hwork, rfl⟩ := hostMove_work hh
    have hturn : EngineInv { s with turns := ts } := engineInv_congr hinv rfl rfl rfl rfl rfl rfl
    exact engineInv_congr (engineInv_hostWork hturn hwork) rfl rfl rfl rfl rfl rfl

/-! ### The storage -/

theorem memInv_of_empty {s : State} (h : s.mem = []) : MemInv s where
  canonical := by rw [h]; rfl
  only_backed a ha := by rw [h] at ha; cases ha
  phase_whole := by rw [h]; exact fun _ _ _ _ _ _ => rfl
  code_whole := by rw [h]; exact fun _ _ _ _ _ _ => rfl

section
variable {s t u : State}

theorem memInv_congr (h : MemInv s) (hmem : t.mem = s.mem) (hcaps : t.caps = s.caps) : MemInv t where
  canonical := by rw [hmem]; exact h.canonical
  only_backed := by rw [hmem, hcaps]; exact h.only_backed
  phase_whole := by rw [hmem, hcaps]; exact h.phase_whole
  code_whole := by rw [hmem, hcaps]; exact h.code_whole

/-- The bytes of word `i` of a buffer. -/
def inWord (b : Buffer) (i x : Nat) : Prop := wordAddr b i ≤ x ∧ x < wordAddr b i + wordBytes b

theorem backed_of_inWord {c : Config.Caps} {b : Buffer} {i x : Nat} (hi : i < bufferWords c b)
    (hx : inWord b i x) : backed c x := by
  cases b <;> simp only [inWord, wordAddr, wordBytes, bufferWords, backed, phaseAddr, codeAddr,
    packAddr] at * <;> omega

/-- Two bytes of one PHASE_MEM entry are both in a word or both outside it. -/
theorem inWord_phase_iff {c : Config.Caps} (hc : capsWellFormed c = true) {b : Buffer} {i n j k : Nat}
    (hi : i < bufferWords c b) (hn : n < c.phaseEntries) (hj : j < 8) (hk : k < 8) :
    inWord b i (phaseAddr n + j) ↔ inWord b i (phaseAddr n + k) := by
  obtain ⟨hphase, -, -, -⟩ := caps_bounds hc
  obtain ⟨hphaseBase, hcodeBase, hpackBase⟩ := bases_eq
  cases b <;> simp only [inWord, wordAddr, wordBytes, bufferWords, phaseAddr, codeAddr, packAddr] at * <;> omega

/-- Two bytes of one CODE_MEM word are both in a word or both outside it. -/
theorem inWord_code_iff {c : Config.Caps} (hc : capsWellFormed c = true) {b : Buffer} {i n j k : Nat}
    (hi : i < bufferWords c b) (hn : n < c.codeEntries) (hj : j < 4) (hk : k < 4) :
    inWord b i (codeAddr n + j) ↔ inWord b i (codeAddr n + k) := by
  obtain ⟨hphase, hcodes, -, -⟩ := caps_bounds hc
  obtain ⟨hphaseBase, hcodeBase, hpackBase⟩ := bases_eq
  cases b <;> simp only [inWord, wordAddr, wordBytes, bufferWords, phaseAddr, codeAddr, packAddr] at * <;> omega

/-- After a store to word `i` a byte is stored if it is in that word or was stored before. -/
theorem isSome_memByte?_store (m : Memory) (b : Buffer) (i v x : Nat) :
    (memByte? (memWrite m (wordAddr b i) (wordBytes b) v) x).isSome = true ↔
      inWord b i x ∨ (memByte? m x).isSome = true := by
  rw [memByte?_memWrite, inWord]
  split_ifs with h <;> simp [h]

theorem memInv_store {b : Buffer} {i : Nat} (v : Nat) (hc : capsWellFormed s.caps = true)
    (hi : i < bufferWords s.caps b) (h : MemInv s) :
    MemInv { s with mem := memWrite s.mem (wordAddr b i) (wordBytes b) v } where
  canonical := memWrite_wf _ _ _ _ h.canonical
  only_backed a ha := by
    obtain hx | hx := (isSome_memByte?_store s.mem b i v a).1 ha
    · exact backed_of_inWord hi hx
    · exact h.only_backed a hx
  phase_whole n j k hn hj hk := by
    rw [Bool.eq_iff_iff, isSome_memByte?_store, isSome_memByte?_store, inWord_phase_iff hc hi hn hj hk,
      h.phase_whole n j k hn hj hk]
  code_whole n j k hn hj hk := by
    rw [Bool.eq_iff_iff, isSome_memByte?_store, isSome_memByte?_store, inWord_code_iff hc hi hn hj hk,
      h.code_whole n j k hn hj hk]

theorem memInv_rangeWrites {b : Buffer} {n : Nat} (hc : capsWellFormed s.caps = true)
    (hn : n ≤ bufferWords s.caps b) (h : MemInv s) (hu : RangeWrites b n s u) : MemInv u := by
  induction hu with
  | refl => exact h
  | draw d _ ih => exact memInv_congr ih rfl rfl
  | store v hi hw ih =>
    obtain ⟨m, d, rfl⟩ := rangeWrites_frame hw
    exact memInv_store v hc (hi.trans_le hn) ih

/-- R108: the range of a command lies in the backed part. -/
theorem rangeLength_le (h : ActiveInv s) (hvalid : s.profileValid = true) (b : Buffer) :
    rangeLength s.act b ≤ bufferWords s.caps b := by
  have hp := h.valid hvalid
  cases b with
  | phase => exact hp.fits_phase
  | code => exact hp.fits_code
  | pack => exact hp.fits_pack

theorem memInv_engineWork {op : Op} (ha : ActiveInv s) (h : MemInv s) (hu : EngineWork s op u) : MemInv u := by
  cases hu with
  | nothing => exact h
  | wrote hvalid _ hw => exact memInv_rangeWrites ha.caps_legal (rangeLength_le ha hvalid _) h hw
  | invalidated => exact memInv_congr h rfl rfl
  | latched => exact memInv_congr h rfl rfl

theorem memInv_hostWork (hc : capsWellFormed s.caps = true) (h : MemInv s) (hu : HostWork s u) : MemInv u := by
  cases hu with
  | accessed hw => exact memInv_rangeWrites hc le_rfl h hw
  | wroteReg r v =>
    obtain ⟨-, -, -, hmem, hcaps⟩ := writeReg_frame r v s
    exact memInv_congr h hmem hcaps

end

theorem activeInv_turns {s : State} (ts : List Turn) (h : ActiveInv s) : ActiveInv { s with turns := ts } :=
  ⟨h.caps_legal, h.valid, h.valid_length, h.invalid_profile, h.invalid_length⟩

/-- Settles O54: every store of a step is to whole words of a backed range. -/
theorem stepKeepsMemoryInvariants : Obligations.StepKeepsMemoryInvariants := by
  intro s t ha hm h
  obtain ⟨ts, hmove⟩ := step_next h
  have hat := activeInv_turns ts ha
  have hmt : MemInv { s with turns := ts } := memInv_congr hm rfl rfl
  obtain ⟨-, rfl⟩ | he | hh := hmove
  · exact memInv_of_empty rfl
  · obtain rfl | ⟨op, snap, -, ⟨-, hwork⟩⟩ := engineMove_next he
    · exact hmt
    · exact memInv_congr (memInv_engineWork hat hmt hwork) rfl rfl
  · obtain ⟨u, agent, hwork, rfl⟩ := hostMove_work hh
    exact memInv_congr (memInv_hostWork hat.caps_legal hmt hwork) rfl rfl

/-! ### Reset -/

theorem activeInv_resetWith {c : Config.Caps} (hc : capsWellFormed c = true) :
    ActiveInv (State.resetWith c) where
  caps_legal := hc
  valid h := nomatch h
  valid_length h := nomatch h
  invalid_profile _ := rfl
  invalid_length _ := rfl

theorem capsWellFormed_suggestedCaps : capsWellFormed Config.suggestedCaps = true := by decide

/-- Settles O57: reset clears every field the invariants speak of. -/
theorem invariantsHoldAtReset : Obligations.InvariantsHoldAtReset := by
  have hreset : ∀ c : Config.Caps, capsWellFormed c = true →
      ActiveInv (State.resetWith c) ∧ EngineInv (State.resetWith c) ∧ MemInv (State.resetWith c) :=
    fun c hc => ⟨activeInv_resetWith hc, engineInv_resetWith c, memInv_of_empty rfl⟩
  exact ⟨hreset, hreset _ capsWellFormed_suggestedCaps⟩

end Sys2Proof.Proofs.Invariants
end

section
/-! PROOFS. The register file (10_state.md R23 to R47; 30_encoding.md R85 to R90): which registers a write reaches,
what each reads back, the STATUS word, and the values reset leaves. -/

namespace Sys2Proof.Proofs.Registers

open Sys2Proof Sys2Proof.Machine Sys2Proof.Proofs.Steps

/-! ### Halves of a 64-bit quantity (30_encoding.md R90) -/

theorem hiHalf_append_loHalf (v : Word64) : hiHalf v ++ loHalf v = v := by
  rw [hiHalf, loHalf, BitVec.extractLsb'_append_extractLsb'_eq_extractLsb' (by decide)]
  exact BitVec.extractLsb'_eq_self

@[simp] theorem loHalf_append (h l : Word) : loHalf (h ++ l) = l := BitVec.extractLsb'_append_eq_right

@[simp] theorem hiHalf_append (h l : Word) : hiHalf (h ++ l) = h := BitVec.extractLsb'_append_eq_left

/-- The half a write replaces reads back, and the other half stays. -/
@[simp] theorem halves_setHalf (h : Word) (v : Word64) :
    loHalf (setHalf false h v) = h ∧ hiHalf (setHalf false h v) = hiHalf v ∧
    loHalf (setHalf true h v) = loHalf v ∧ hiHalf (setHalf true h v) = h := by
  simp [setHalf]

/-! ### Writes and what they leave (O42, O43) -/

/-- The registers a write can change (R23), CMD and STATUS among them. -/
def writableRegs : List Reg :=
  [.cmd, .status, .irqEn, .cfgDepth, .cfgRes, .cfgMode, .cfgPminLo, .cfgPminHi, .cfgPmaxLo, .cfgPmaxHi,
   .srcRes, .srcLen]

theorem writeReg_readOnly {r : Reg} (h : r ∉ writableRegs) (v : Word) (s : State) : writeReg r v s = s := by
  cases r
  case cmd | status | irqEn | cfgDepth | cfgRes | cfgMode | cfgPminLo | cfgPminHi | cfgPmaxLo | cfgPmaxHi |
    srcRes | srcLen => simp [writableRegs] at h
  all_goals rfl

/-- Settles O42: no register of the list is writable. -/
theorem readOnlyRegistersIgnoreWrites : Obligations.ReadOnlyRegistersIgnoreWrites := by
  intro s v
  refine ⟨fun r hr => writeReg_readOnly ?_ v s, rfl, rfl, rfl, rfl, rfl, rfl⟩
  revert r
  decide

theorem readReg_writeReg_of_ne {r r' : Reg} (hcmd : r ≠ .cmd) (hstatus : r ≠ .status) (hne : r' ≠ r) (v : Word)
    (s : State) : readReg r' (writeReg r v s) = readReg r' s := by
  cases r
  case cmd | status => contradiction
  case irqEn | cfgDepth | cfgRes | cfgMode | srcRes | srcLen => cases r' <;> trivial
  case cfgPminLo | cfgPminHi | cfgPmaxLo | cfgPmaxHi =>
    cases r' <;> simp [readReg, writeReg, statusWord, State.busy, State.errFlag] at hne ⊢
  all_goals rfl

/-- A field of the low `n` bits of a register reads the low `n` bits written (R38). -/
theorem setWidth_setWidth_eq_and (v : Word) (n : Nat) :
    (v.setWidth n).setWidth 32 = v &&& BitVec.ofNat 32 (2 ^ n - 1) := by
  ext i hi
  simp [← BitVec.getLsbD_eq_getElem, BitVec.getLsbD_ofNat, hi, Nat.testBit_two_pow_sub_one, Bool.and_comm]

theorem ofBool_getLsbD_zero (v : Word) : BitVec.ofBool (v.getLsbD 0) = v.setWidth 1 := by
  ext i hi
  obtain rfl : i = 0 := by omega
  simp

/-- Settles O43: a field is as wide as its mask, and a read shows no field but its own. -/
theorem registerReadsBackWhatWasWritten : Obligations.RegisterReadsBackWhatWasWritten := by
  intro s v
  have hirqEn : readReg .irqEn (writeReg .irqEn v s) = (v.setWidth 1).setWidth 32 :=
    congrArg (BitVec.setWidth 32) (ofBool_getLsbD_zero v)
  refine ⟨hirqEn.trans (setWidth_setWidth_eq_and v 1), setWidth_setWidth_eq_and v 6,
    setWidth_setWidth_eq_and v 7, fun r hr => ?_,
    fun r r' hcmd hstatus hne => readReg_writeReg_of_ne hcmd hstatus hne v s⟩
  cases r
  case cfgRes | srcRes | srcLen => rfl
  case cfgPminLo | cfgPminHi | cfgPmaxLo | cfgPmaxHi => simp [readReg, writeReg]
  all_goals simp at hr

/-! ### The STATUS word (O44, O45) -/

theorem errFlag_iff (s : State) : s.errFlag = true ↔ s.err ≠ .noError := by
  unfold State.errFlag
  cases s.err <;> decide

theorem getLsbD_statusWord (s : State) :
    (statusWord s).getLsbD 0 = s.busy ∧ (statusWord s).getLsbD 1 = s.done ∧
    (statusWord s).getLsbD 2 = s.errFlag ∧ (statusWord s).getLsbD 3 = s.overrun ∧
    (statusWord s).getLsbD 4 = s.profileValid := by
  simp only [statusWord, BitVec.getLsbD_append, BitVec.getLsbD_ofBool]
  simp

theorem extractLsb'_statusWord (s : State) :
    (statusWord s).extractLsb' 5 3 = 0#3 ∧ (statusWord s).extractLsb' 8 4 = errCode s.err ∧
    (statusWord s).extractLsb' 12 20 = 0#20 := by
  simp only [statusWord]
  refine ⟨?_, ?_, ?_⟩
  · iterate 5 rw [BitVec.extractLsb'_append_eq_of_le (by decide)]
    exact BitVec.extractLsb'_append_eq_right
  · iterate 6 rw [BitVec.extractLsb'_append_eq_of_le (by decide)]
    exact BitVec.extractLsb'_append_eq_right
  · iterate 7 rw [BitVec.extractLsb'_append_eq_of_le (by decide)]
    rfl

theorem and_not_eq_ite (a b : Bool) : (a && !b) = if b then false else a := by
  cases a <;> cases b <;> rfl

/-- Settles O44: each field is cut out of the concatenation that makes the word. -/
theorem statusWordAndItsClearing : Obligations.StatusWordAndItsClearing := by
  intro s v
  obtain ⟨hbusy, hdone, herr, hoverrun, hvalid⟩ := getLsbD_statusWord s
  obtain ⟨hreserved, hcode, hhigh⟩ := extractLsb'_statusWord s
  refine ⟨hbusy, hdone, (Bool.eq_iff_iff.1 herr).trans (errFlag_iff s), hoverrun, hvalid, hreserved,
    hcode.trans ?_, hhigh, ?_⟩
  · cases s.err <;> rfl
  · simp only [writeReg, statusWrite, and_not_eq_ite]

/-- Settles O45: the two bits read are the two flags of `State.irq`. -/
theorem irqIsDoneAndEnabled : Obligations.IrqIsDoneAndEnabled := by
  intro s
  obtain ⟨-, hdone, -⟩ := getLsbD_statusWord s
  have henabled : (readReg .irqEn s).getLsbD 0 = s.doneIe := by simp [readReg]
  refine ⟨?_, ?_, ?_⟩
  · rw [henabled, readReg, hdone, State.irq, Bool.and_eq_true]
  · simp [writeReg, State.irq]
  · simp [writeReg, State.irq]

/-! ### Reset (O46) -/

theorem hiHalf_zero : hiHalf 0 = 0#32 := by decide

theorem statusWord_resetInput (s : State) : statusWord (resetInput s) = 0#32 :=
  (rfl : _ = statusWord State.reset).trans (by decide)

/-- Settles O46: every field of the table is cleared, and the constants do not depend on the state. -/
theorem resetLeavesTableValues : Obligations.ResetLeavesTableValues := by
  intro s
  refine ⟨fun r hr => ?_, rfl, rfl, rfl, rfl, rfl, rfl, rfl, rfl, fun _ => rfl, fun _ => step_of_turn⟩
  cases r
  case id | version | capPhase | capCode | capPack | capDepth => simp at hr
  case status => exact statusWord_resetInput s
  case cfgPminHi | cfgPmaxHi | actPminHi | actPmaxHi | errExpHi | errActHi => exact hiHalf_zero
  all_goals rfl

/-! ### Fields (O60) -/

theorem layout_of_mode (p : Profile) :
    (p.mode.extractLsb' 1 2 = 0#2 → p.layout = .packedSubbyte) ∧
    (p.mode.extractLsb' 1 2 = 1#2 → p.layout = .leMultibyte) ∧
    (p.mode.extractLsb' 1 2 = 2#2 → p.layout = .beMultibyte) ∧
    (p.mode.extractLsb' 1 2 = 3#2 → p.layout = .reserved) := by
  refine ⟨fun h => ?_, fun h => ?_, fun h => ?_, fun h => ?_⟩ <;> simp [Profile.layout, byteLayoutOf, h]

theorem policy_of_mode (p : Profile) :
    (p.mode.extractLsb' 5 2 = 0#2 → p.policy = .clamp) ∧
    (p.mode.extractLsb' 5 2 = 1#2 → p.policy = .wrap) ∧
    (p.mode.extractLsb' 5 2 = 2#2 → p.policy = .error) ∧
    (p.mode.extractLsb' 5 2 = 3#2 → p.policy = .reserved) := by
  refine ⟨fun h => ?_, fun h => ?_, fun h => ?_, fun h => ?_⟩ <;> simp [Profile.policy, policyOf, h]

theorem width_eq (p : Profile) : p.width = p.res.toNat % 2 ^ 16 := by
  simp [Profile.width, widthOf]

theorem height_eq (p : Profile) : p.height = p.res.toNat / 2 ^ 16 := by
  have := p.res.isLt
  rw [Profile.height, heightOf, BitVec.extractLsb'_toNat, Nat.shiftRight_eq_div_pow]
  omega

theorem ratOf_of_val {w : Word64} {q : ℚ} (h : val w = .num q) : ratOf w = q := by
  simp [ratOf, h]

/-- Settles O60: the codes of each field of MODE, and the registers as fields or halves of fields. -/
theorem registerFieldEncodings : Obligations.RegisterFieldEncodings := by
  constructor
  · intro p
    obtain ⟨l0, l1, l2, l3⟩ := layout_of_mode p
    obtain ⟨p0, p1, p2, p3⟩ := policy_of_mode p
    exact ⟨rfl, l0, l1, l2, l3, rfl, rfl, p0, p1, p2, p3, width_eq p, height_eq p, rfl,
      fun _ => ratOf_of_val, fun _ => ratOf_of_val⟩
  · intro s
    exact ⟨rfl, rfl, rfl, rfl, rfl, rfl, hiHalf_append_loHalf _, hiHalf_append_loHalf _,
      hiHalf_append_loHalf _, hiHalf_append_loHalf _, rfl, rfl, rfl, rfl, hiHalf_append_loHalf _,
      hiHalf_append_loHalf _⟩

end Sys2Proof.Proofs.Registers
end

section
/-! PROOFS. The buffers as the Engine and the Host reach them (20_memory.md R63 to R73): a command stores only in its
destination range, a running command does not see the Host's later settings, a read changes nothing, and each buffer
window stores and gives back what R63 to R67 say. -/

namespace Sys2Proof.Proofs.MemoryAccess

open Sys2Proof Sys2Proof.Machine Sys2Proof.Proofs.Bus Sys2Proof.Proofs.Steps Sys2Proof.Proofs.Registers

/-! ### What a store leaves alone -/

theorem wordAddr_eq (b : Buffer) (i : Nat) : wordAddr b i = wordAddr b 0 + wordBytes b * i := by
  cases b <;> simp only [wordAddr, wordBytes, phaseAddr, codeAddr, packAddr] <;> omega

theorem wordAddr_succ (b : Buffer) (i : Nat) : wordAddr b (i + 1) = wordAddr b i + wordBytes b := by
  rw [wordAddr_eq b (i + 1), wordAddr_eq b i, Nat.mul_succ, Nat.add_assoc]

theorem wordAddr_le (b : Buffer) {i j : Nat} (h : i ≤ j) : wordAddr b i ≤ wordAddr b j := by
  rw [wordAddr_eq b i, wordAddr_eq b j]
  exact Nat.add_le_add_left (Nat.mul_le_mul_left _ h) _

section
variable {s t : State} {b : Buffer}

theorem sameOutside_of_memWrite {a n v : Nat} (h : t.mem = memWrite s.mem a n v) :
    sameOutside a (a + n) s t := fun x hx => by
  rw [h, memByte?_memWrite_outside hx]

theorem sameOutside_of_wordWrite {i v : Nat} (h : t.mem = memWrite s.mem (wordAddr b i) (wordBytes b) v) :
    sameOutside (wordAddr b i) (wordAddr b (i + 1)) s t :=
  wordAddr_succ b i ▸ sameOutside_of_memWrite h

theorem sameOutside_of_rangeWrites {n : Nat} (h : RangeWrites b n s t) :
    sameOutside (wordAddr b 0) (wordAddr b n) s t := by
  induction h with
  | refl => exact fun _ _ => rfl
  | draw _ _ ih => exact ih
  | @store u i v hi _ ih =>
    intro x hx
    have hfirst := wordAddr_le b i.zero_le
    have hlast := wordAddr_le b (i := i + 1) hi
    refine Eq.trans (sameOutside_of_wordWrite (s := u) rfl x ?_) (ih x hx)
    omega

/-! ### The destination range of a command (O15) -/

theorem sameOutside_of_engineWork {op : Op} (htarget : opTarget op = some b) (h : EngineWork s op t) :
    sameOutside (wordAddr b 0) (wordAddr b (rangeLength s.act b)) s t := by
  cases h with
  | nothing => exact fun _ _ => rfl
  | wrote _ hb hw =>
    obtain rfl : b = _ := Option.some.inj (htarget.symm.trans hb)
    exact sameOutside_of_rangeWrites hw
  | invalidated => cases htarget
  | latched => cases htarget

theorem exec_sameOutside {i : Instr} (htarget : opTarget (.command i) = some b) (h : exec i s = .next t) :
    sameOutside (wordAddr b 0) (wordAddr b (rangeLength s.act b)) s t := by
  obtain ⟨-, hwork⟩ := exec_next h
  exact fun x hx => sameOutside_of_engineWork htarget hwork x hx

theorem exec_validate_mem (h : exec .validate s = .next t) : t.mem = s.mem := by
  obtain ⟨-, hwork⟩ := exec_next h
  cases hwork with
  | wrote _ htarget _ => cases htarget
  | nothing | invalidated | latched => rfl

end

/-- Settles O15: a command's stores are to words of its destination range, and VALIDATE has none. -/
theorem commandsWriteOnlyTheirRange : Obligations.CommandsWriteOnlyTheirRange := fun _ _ =>
  ⟨fun h _ => by rw [exec_validate_mem h], exec_sameOutside (b := .code) rfl,
    exec_sameOutside (b := .phase) rfl, exec_sameOutside (b := .pack) rfl,
    exec_sameOutside (b := .code) rfl⟩

/-! ### The Host's settings and a running command (O17) -/

/-- What a Host write that R217 calls safe can change. -/
structure Settings where
  overrun : Bool
  doneIe : Bool
  cfg : Profile
  srcRes : Word
  srcLen : Word

/-- The settings that stand in a state. -/
def settingsOf (s : State) : Settings := ⟨s.overrun, s.doneIe, s.cfg, s.srcRes, s.srcLen⟩

/-- The state with other settings. -/
def withSettings (c : Settings) (s : State) : State :=
  { s with overrun := c.overrun, doneIe := c.doneIe, cfg := c.cfg, srcRes := c.srcRes, srcLen := c.srcLen }

@[simp] theorem withSettings_mem (c : Settings) (s : State) : (withSettings c s).mem = s.mem := rfl

@[simp] theorem withSettings_caps (c : Settings) (s : State) : (withSettings c s).caps = s.caps := rfl

/-- A write that R217 calls safe only changes the settings, by what the settings were. -/
theorem writeReg_eq_withSettings {r : Reg} {v : Word}
    (h : r ∈ [Reg.irqEn, .cfgDepth, .cfgRes, .cfgMode, .cfgPminLo, .cfgPminHi, .cfgPmaxLo, .cfgPmaxHi,
      .srcRes, .srcLen] ∨ (r = .status ∧ v.getLsbD 1 = false)) :
    ∃ g : Settings → Settings, ∀ s, writeReg r v s = withSettings (g (settingsOf s)) s := by
  -- What is written depends on no other field, so the reset state stands for the rest.
  refine ⟨fun c => settingsOf (writeReg r v (withSettings c State.reset)), fun s => ?_⟩
  obtain hr | ⟨rfl, hdone⟩ := h
  · cases r
    case irqEn | cfgDepth | cfgRes | cfgMode | cfgPminLo | cfgPminHi | cfgPmaxLo | cfgPmaxHi | srcRes |
      srcLen => rfl
    all_goals simp at hr
  · simp only [writeReg, statusWrite, hdone, Bool.not_false, Bool.and_true]
    rfl

/-- The settings make no difference to `f`, which leaves them. -/
def IgnoresSettings (c : Settings) (f : State → State) : Prop :=
  ∀ s, f (withSettings c s) = withSettings c (f s)

/-- The settings make no difference to the element read `rd`. -/
def ReadIgnoresSettings {α : Type} (c : Settings) (rd : Nat → State → α × State) : Prop :=
  ∀ i s, rd i (withSettings c s) = ((rd i s).1, withSettings c (rd i s).2)

section
variable {c : Settings} {s : State}

theorem phaseRead_ignoresSettings : ReadIgnoresSettings c phaseRead := fun i s => by
  unfold phaseRead
  rw [withSettings_mem]
  cases phaseWord? s.mem i <;> rfl

theorem codeRead_ignoresSettings : ReadIgnoresSettings c codeRead := fun i s => by
  unfold codeRead
  rw [withSettings_mem]
  cases codeWord? s.mem i <;> rfl

theorem packRead_ignoresSettings : ReadIgnoresSettings c packRead := fun k s => by
  unfold packRead
  rw [withSettings_mem]
  cases packByte? s.mem k <;> rfl

theorem readFrom_ignoresSettings {α : Type} {rd : Nat → State → α × State} (h : ReadIgnoresSettings c rd)
    (n : Nat) : ∀ i s, readFrom rd i n (withSettings c s) =
      ((readFrom rd i n s).1, withSettings c (readFrom rd i n s).2) := by
  induction n with
  | zero => exact fun _ _ => rfl
  | succ n ih =>
    intro i s
    simp only [readFrom, h i s, ih (i + 1) (rd i s).2]

theorem forRange_ignoresSettings {f : Nat → State → State} (h : ∀ i, IgnoresSettings c (f i)) (n : Nat) :
    IgnoresSettings c (forRange n f) := by
  intro s
  induction n with
  | zero => rfl
  | succ n ih => simp only [forRange, ih, h n (forRange n f s)]

theorem profileGate_withSettings {k : State → State} (h : k (withSettings c s) = withSettings c (k s)) :
    profileGate (withSettings c s) k = withSettings c (profileGate s k) := by
  simp only [profileGate, apply_ite (withSettings c), h]
  rfl

/-- The snapshot of a running command is the one its start took (R187). -/
theorem snap_withSettings {op : Op} {snap : Snap} (hrun : s.engine = .running op snap) :
    (withSettings c s).snap = s.snap := by
  simp [State.snap, withSettings, hrun]

section
variable {op : Op} {snap : Snap} (hrun : s.engine = .running op snap)
include hrun

theorem shapeCheck_withSettings {k : State → State} (h : k (withSettings c s) = withSettings c (k s)) :
    shapeCheck (withSettings c s) k = withSettings c (shapeCheck s k) := by
  simp only [shapeCheck, snap_withSettings hrun, apply_ite (withSettings c), h]
  rfl

theorem lengthCheck_withSettings {k : State → State} (h : k (withSettings c s) = withSettings c (k s)) :
    lengthCheck (withSettings c s) k = withSettings c (lengthCheck s k) := by
  simp only [lengthCheck, snap_withSettings hrun, apply_ite (withSettings c), h]
  rfl

theorem validateCommand_withSettings :
    validateCommand (withSettings c s) = withSettings c (validateCommand s) := by
  unfold validateCommand
  rw [snap_withSettings hrun, withSettings_caps]
  cases profileError? s.caps s.snap.cfg <;> rfl

end

/-- A scan from one range to another does not see the settings, if neither its reads nor its writes do. -/
theorem finishElements_withSettings {α β : Type} {rd : Nat → State → α × State}
    {check : α → Except (Word64 × Word64) β} {k : ErrKind} {n : Nat} {scramble : State → State}
    {write : List β → State → State} (hread : ReadIgnoresSettings c rd) (hscramble : IgnoresSettings c scramble)
    (hwrite : ∀ bs, IgnoresSettings c (write bs)) :
    finishElements k (checkEach check 0 (readFrom rd 0 n (withSettings c s)).1) scramble write
      (readFrom rd 0 n (withSettings c s)).2 =
    withSettings c (finishElements k (checkEach check 0 (readFrom rd 0 n s).1) scramble write
      (readFrom rd 0 n s).2) := by
  rw [readFrom_ignoresSettings hread]
  unfold finishElements
  cases checkEach check 0 (readFrom rd 0 n s).1 with
  | error e => exact congrArg (raiseError k e.1 e.2.1 e.2.2) (hscramble _)
  | ok bs => exact congrArg completeOk (hwrite bs _)

theorem quantizeScan_ignoresSettings : IgnoresSettings c quantizeScan := fun _ =>
  finishElements_withSettings phaseRead_ignoresSettings (forRange_ignoresSettings (fun _ _ => by rfl) _)
    fun _ => forRange_ignoresSettings (fun _ _ => by rfl) _

theorem dequantizeScan_ignoresSettings : IgnoresSettings c dequantizeScan := fun _ =>
  finishElements_withSettings codeRead_ignoresSettings (forRange_ignoresSettings (fun _ _ => by rfl) _)
    fun _ => forRange_ignoresSettings (fun _ _ => by rfl) _

theorem packScan_ignoresSettings : IgnoresSettings c packScan := fun _ =>
  finishElements_withSettings codeRead_ignoresSettings (forRange_ignoresSettings (fun _ _ => by rfl) _)
    fun _ => forRange_ignoresSettings (fun _ _ => by rfl) _

theorem unpackScan_ignoresSettings : IgnoresSettings c unpackScan := fun s => by
  have hwrite : ∀ bs, IgnoresSettings c (writeExtracted s.act bs) :=
    fun _ => forRange_ignoresSettings (fun _ _ => by rfl) _
  rw [unpackScan, readFrom_ignoresSettings packRead_ignoresSettings]
  exact congrArg completeOk (hwrite _ _)

theorem exec_withSettings {op : Op} {snap : Snap} (hrun : s.engine = .running op snap) {i : Instr} {t : State}
    (h : exec i s = .next t) : exec i (withSettings c s) = .next (withSettings c t) := by
  cases i <;> cases h <;> refine congrArg Host.Outcome.next ?_
  case validate => exact validateCommand_withSettings hrun
  case quantize =>
    exact profileGate_withSettings (shapeCheck_withSettings hrun (quantizeScan_ignoresSettings s))
  case dequantize =>
    exact profileGate_withSettings (shapeCheck_withSettings hrun (dequantizeScan_ignoresSettings s))
  case pack => exact profileGate_withSettings (shapeCheck_withSettings hrun (packScan_ignoresSettings s))
  case unpack => exact profileGate_withSettings (lengthCheck_withSettings hrun (unpackScan_ignoresSettings s))

end

/-- A command leaves the settings. -/
theorem settingsOf_exec {i : Instr} {s t : State} (h : exec i s = .next t) : settingsOf t = settingsOf s := by
  obtain ⟨-, hwork⟩ := exec_next h
  cases hwork with
  | wrote _ _ hw => obtain ⟨m, d, rfl⟩ := rangeWrites_frame hw; rfl
  | nothing | invalidated | latched => rfl

/-- Settles O17: the write only replaces settings, which the running command neither sees nor changes. -/
theorem operandsAreSampledAtStart : Obligations.OperandsAreSampledAtStart := by
  intro s op snap hrun r v hr i t h
  obtain ⟨g, hg⟩ := writeReg_eq_withSettings hr
  rw [hg s, hg t, settingsOf_exec h]
  exact exec_withSettings hrun h

/-! ### Reads (O48) -/

/-- Settles O48: an answered read is the read of a target, which only draws. -/
theorem readsHaveNoSideEffect : Obligations.ReadsHaveNoSideEffect := by
  intro s t w a v h
  obtain ⟨tg, -, htg⟩ := busRead_ok.1 h
  obtain ⟨d, hd⟩ := readTarget_drawsOnly tg s
  rw [htg] at hd
  rw [show t = { s with draws := d } from hd]

/-! ### Accesses while IDLE -/

section
variable {s : State} {w : Width} {addr : Word}

section
variable (hidle : s.engine = .idle)
include hidle

theorem engineWrites_of_idle (b : Buffer) (i : Nat) : s.engineWrites b i = false := by
  simp [State.engineWrites, hidle]

theorem engineUses_of_idle (b : Buffer) (i : Nat) : s.engineUses b i = false := by
  simp [State.engineUses, hidle]

/-- R215: no write races while the Engine is IDLE. -/
theorem targetRaces_of_idle (tg : BusTarget) : targetRaces s tg = false := by
  cases tg <;> simp [targetRaces, engineUses_of_idle hidle]

/-- R67: where the bytes of a number `x` are stored, the lanes of a PACK read hold its low bytes. -/
theorem hostPackLanes_of_stored (n : Nat) : ∀ (k x : Nat),
    (∀ m < n, packByte? s.mem (k + m) = some (BitVec.ofNat 8 (x / 256 ^ m))) →
    hostPackLanes k n s = (x % 256 ^ n, s) := by
  induction n with
  | zero => intro k x _; simp [hostPackLanes, Nat.mod_one]
  | succ n ih =>
    intro k x h
    have hbyte : hostPackByte k s = (BitVec.ofNat 8 x, s) := by
      simpa [hostPackByte, engineWrites_of_idle hidle] using packRead_stored (h 0 n.succ_pos)
    have hrest : hostPackLanes (k + 1) n s = (x / 256 % 256 ^ n, s) := ih (k + 1) (x / 256) fun m hm => by
      have hm' := h (m + 1) (Nat.succ_lt_succ hm)
      rwa [← Nat.add_assoc, Nat.add_right_comm, Nat.pow_succ', ← Nat.div_div_eq_div_mul] at hm'
    rw [hostPackLanes, hbyte, hrest, Nat.pow_succ', Nat.mod_mul]
    rfl

end

section
variable (hc : capsWellFormed s.caps = true) (hidle : s.engine = .idle)
include hc hidle

theorem busWrite_of_accepts {tg : BusTarget} (h : Accepts s.caps w addr.toNat tg) (v : Word) :
    busWrite w addr v s = .ok (writeTarget tg v s) :=
  busWrite_ok.2 ⟨tg, busTarget_of_accepts hc h, targetRaces_of_idle hidle tg, rfl⟩

theorem busRead_phase_of_stored {i : Nat} {high : Bool} {x : Word64}
    (h : Accepts s.caps w addr.toNat (.phase i high)) (hx : phaseWord? s.mem i = some x) :
    busRead w addr s = .ok (halfOf high x, s) := by
  rw [busRead_of_target (busTarget_of_accepts hc h),
    readTarget_phase_stored high (engineWrites_of_idle hidle _ _) hx]

theorem busRead_code_of_stored {i : Nat} {x : Word} (h : Accepts s.caps w addr.toNat (.code i))
    (hx : codeWord? s.mem i = some x) : busRead w addr s = .ok (x, s) := by
  rw [busRead_of_target (busTarget_of_accepts hc h),
    readTarget_code_stored (engineWrites_of_idle hidle _ _) hx]

theorem busRead_pack_of_stored {k n x : Nat} (h : Accepts s.caps w addr.toNat (.pack k n))
    (hx : ∀ m < n, packByte? s.mem (k + m) = some (BitVec.ofNat 8 (x / 256 ^ m))) :
    busRead w addr s = .ok (BitVec.ofNat 32 (x % 256 ^ n), s) := by
  rw [busRead_of_target (busTarget_of_accepts hc h), readTarget, hostPackLanes_of_stored hidle n k x hx]

end

end

/-! ### The PACK window (O49) -/

theorem accepts_pack {c : Config.Caps} (hc : capsWellFormed c = true) {w : Width} {k : Nat}
    (halign : k % widthBytes w = 0) (hk : k + widthBytes w ≤ c.packBytes) :
    Accepts c w (BitVec.ofNat 32 (0x30000000 + k)).toNat (.pack k (widthBytes w)) := by
  obtain ⟨-, -, hpack, -⟩ := caps_bounds hc
  have haddr : (BitVec.ofNat 32 (0x30000000 + k)).toNat = packAddr k := Nat.mod_eq_of_lt (by omega)
  refine ⟨rfl, haddr, ?_, hk⟩
  rw [haddr]
  cases w <;> simp only [widthBytes, packAddr, packBase] at * <;> omega

theorem ofNat_byte (v : Word) (m : Nat) : BitVec.ofNat 8 (v.toNat / 256 ^ m) = v.extractLsb' (8 * m) 8 :=
  BitVec.eq_of_toNat_eq (extractLsb'_byte v m).symm

/-- `n` bytes of a word from byte `j` up, in their lanes with zeros above (R67). -/
theorem ofNat_lanes (v : Word) (j n : Nat) : BitVec.ofNat 32 (v.toNat / 256 ^ j % 256 ^ n) =
    (v >>> (8 * j)) &&& BitVec.ofNat 32 (2 ^ (8 * n) - 1) := by
  have hlanes : v.toNat / 256 ^ j % 256 ^ n = (v >>> (8 * j)).toNat &&& (2 ^ (8 * n) - 1) := by
    rw [Nat.and_two_pow_sub_one_eq_mod, BitVec.toNat_ushiftRight, Nat.shiftRight_eq_div_pow, Nat.pow_mul,
      Nat.pow_mul]
  rw [hlanes, BitVec.ofNat_and, BitVec.ofNat_toNat, BitVec.setWidth_eq]

theorem packAddr_add (k j : Nat) : packAddr (k + j) = packAddr k + j := (Nat.add_assoc _ _ _).symm

theorem packByte?_memWrite (m : Memory) (k v : Nat) {n j : Nat} (hj : j < n) :
    packByte? (memWrite m (packAddr k) n v) (k + j) = some (BitVec.ofNat 8 (v / 256 ^ j)) := by
  rw [packByte?, packAddr_add, memByte?_memWrite, if_pos (by omega), Nat.add_sub_cancel_left]

/-- Settles O49: the bytes of the word written are stored one by one, and the lanes of a read inside them are
bytes of the word shifted down. -/
theorem packWindowIsLittleEndian : Obligations.PackWindowIsLittleEndian := by
  intro s w k v hc hidle bytes
  have hbytes : bytes = widthBytes := by funext w; cases w <;> rfl
  clear_value bytes
  subst hbytes
  intro halign hk
  let t := writeTarget (.pack k (widthBytes w)) v s
  have hstored : ∀ j < widthBytes w, packByte? t.mem (k + j) = some (BitVec.ofNat 8 (v.toNat / 256 ^ j)) :=
    fun _ => packByte?_memWrite _ _ _
  refine ⟨t, busWrite_of_accepts hc hidle (accepts_pack hc halign hk) v,
    fun j hj => ofNat_byte v j ▸ hstored j hj, fun w' j halign' hle => ?_,
    packAddr_add k _ ▸ sameOutside_of_memWrite rfl⟩
  have hacc := accepts_pack hc halign' (hk.trans' (by omega))
  rw [← ofNat_lanes]
  refine busRead_pack_of_stored (s := t) hc hidle hacc fun m hm => ?_
  rw [Nat.add_assoc, Nat.div_div_eq_div_mul, ← Nat.pow_add]
  exact hstored _ (by omega)

/-! ### The PHASE and CODE windows (O50) -/

theorem accepts_phase {c : Config.Caps} (hc : capsWellFormed c = true) {i : Nat} (hi : i < c.phaseEntries)
    (high : Bool) :
    Accepts c .w32 (BitVec.ofNat 32 (0x10000000 + 8 * i + if high then 4 else 0)).toNat (.phase i high) := by
  obtain ⟨hphase, -, -, -⟩ := caps_bounds hc
  exact ⟨rfl, Nat.mod_eq_of_lt (by split <;> omega), hi⟩

theorem accepts_code {c : Config.Caps} (hc : capsWellFormed c = true) {i : Nat} (hi : i < c.codeEntries) :
    Accepts c .w32 (BitVec.ofNat 32 (0x20000000 + 4 * i)).toNat (.code i) := by
  obtain ⟨-, hcode, -, -⟩ := caps_bounds hc
  exact ⟨rfl, Nat.mod_eq_of_lt (by omega), hi⟩

@[simp] theorem halfOf_setHalf (high : Bool) (h : Word) (v : Word64) : halfOf high (setHalf high h v) = h := by
  cases high <;> simp [halfOf]

@[simp] theorem halfOf_not_setHalf (high : Bool) (h : Word) (v : Word64) :
    halfOf (!high) (setHalf high h v) = halfOf (!high) v := by
  cases high <;> simp [halfOf]

theorem phaseRead_frame (i : Nat) (s : State) :
    (phaseRead i s).2.mem = s.mem ∧ (phaseRead i s).2.engine = s.engine ∧
    (phaseRead i s).2.caps = s.caps := by
  obtain ⟨d, hd⟩ := phaseRead_drawsOnly i s
  rw [hd]
  exact ⟨rfl, rfl, rfl⟩

/-- Settles O50: a PHASE write stores the entry read with one half replaced, and a CODE write the word. -/
theorem phaseAndCodeWindowWrites : Obligations.PhaseAndCodeWindowWrites := by
  intro s i v hc hidle
  constructor
  · intro hi high
    obtain ⟨hmem, hengine, hcaps⟩ := phaseRead_frame i s
    have hacc := accepts_phase hc hi high
    have hstored := phaseWord?_phaseWrite_same i (setHalf high v (phaseRead i s).1) (phaseRead i s).2
    have hread := busRead_phase_of_stored (s := writeTarget (.phase i high) v s) (hcaps ▸ hc)
      (hengine.trans hidle) (hcaps ▸ hacc) hstored
    rw [halfOf_setHalf] at hread
    refine ⟨_, _, busWrite_of_accepts hc hidle hacc v, hstored, halfOf_setHalf high v _, fun w0 hw0 => ?_, hread,
      sameOutside_of_wordWrite (b := .phase) (congrArg (memWrite · _ _ _) hmem)⟩
    rw [halfOf_not_setHalf, phaseRead_stored hw0]
  · intro hi
    have hacc := accepts_code hc hi
    have hstored := codeWord?_codeWrite_same i v s
    exact ⟨codeWrite i v s, busWrite_of_accepts hc hidle hacc v, hstored,
      busRead_code_of_stored (s := codeWrite i v s) hc hidle hacc hstored,
      sameOutside_of_wordWrite (b := .code) rfl⟩

end Sys2Proof.Proofs.MemoryAccess
end

section
/-! PROOFS. The CMD word (30_encoding.md R80 to R83) and what becomes of it: the word of each command, a command
placed or started through the bus (60_exceptions.md R187), an illegal word (R82), and `run <OP>` (R92). -/

namespace Sys2Proof.Proofs.Encoding

open Sys2Proof Sys2Proof.Machine Sys2Proof.Proofs.Bus Sys2Proof.Proofs.Steps Sys2Proof.Proofs.Registers

/-! ### Decoding (O1, O2) -/

/-- R80: a word is its two fields. -/
theorem eq_setWidth_iff (w : Word) (op : BitVec 4) :
    w = op.setWidth 32 ↔ cmdRsvd w = 0#28 ∧ cmdOpcode w = op := by
  have hop := op.isLt
  simp only [cmdRsvd, cmdOpcode, ← BitVec.toNat_inj, BitVec.toNat_setWidth, BitVec.extractLsb'_toNat,
    BitVec.toNat_ofNat, Nat.shiftRight_eq_div_pow]
  omega

theorem opcodeInstr_eq_some_iff (op : BitVec 4) (i : Instr) : opcodeInstr op = some i ↔ op = instrOpcode i := by
  revert op
  cases i <;> decide

theorem decode_eq_ok_iff (w : Word) (i : Instr) :
    decode w = .ok i ↔ cmdRsvd w = 0#28 ∧ opcodeInstr (cmdOpcode w) = some i := by
  unfold decode
  split_ifs with hrsvd
  · cases opcodeInstr (cmdOpcode w) <;> simp [hrsvd]
  · simp [hrsvd]

/-- Settles O2: a word is fixed by RSVD and OPCODE, and the decoder looks at nothing else. -/
theorem decodeEncode : Obligations.DecodeEncode := by
  intro i w
  rw [decode_eq_ok_iff, opcodeInstr_eq_some_iff, encode, eq_setWidth_iff]

theorem decode_encode (i : Instr) : decode (encode i) = .ok i := (decodeEncode i _).2 rfl

/-- R82: what is the word of no command is rejected. -/
theorem decode_eq_error {w : Word} (h : ∀ i, w ≠ encode i) : ∃ r, decode w = .error r := by
  cases hd : decode w with
  | ok i => exact absurd ((decodeEncode i w).1 hd) (h i)
  | error r => exact ⟨r, rfl⟩

theorem toNat_encode (i : Instr) : 1 ≤ (encode i).toNat ∧ (encode i).toNat ≤ 5 := by cases i <;> decide

/-- Settles O1: the five words are the commands' words, which lie from 1 to 5. -/
theorem decodeMap : Obligations.DecodeMap := by
  intro w
  refine ⟨(decodeEncode .validate w).2, (decodeEncode .quantize w).2, (decodeEncode .dequantize w).2,
    (decodeEncode .pack w).2, (decodeEncode .unpack w).2, fun hw => decode_eq_error ?_⟩
  rintro i rfl
  have hrange := toNat_encode i
  omega

/-! ### A placed command (O4) -/

theorem opOf_encode (i : Instr) : opOf (encode i) = .command i := by rw [opOf, decode_encode]

theorem decodeTableWord_encode (i : Instr) : decodeTableWord 32 (encode i).toNat = some i := by
  have hlt : (encode i).toNat < 2 ^ 32 := (encode i).isLt
  rw [decodeTableWord, Nat.mod_eq_of_lt hlt, if_pos hlt, BitVec.ofNat_toNat, BitVec.setWidth_eq, decode_encode]

theorem withFetchWord_encode (i : Instr) (s : State) : s.withFetchWord 32 (encode i).toNat =
    { startCommand (encode i) s with turns := engineFirst s.turns } := by
  rw [State.withFetchWord, placeCommand, Nat.mod_eq_of_lt (encode i).isLt, BitVec.ofNat_toNat,
    BitVec.setWidth_eq]

theorem startCommand_encode_engine (i : Instr) (s : State) :
    (startCommand (encode i) s).engine = .running (.command i) (s.sample (encode i)) := by
  rw [startCommand_engine, opOf_encode]

/-- With the Engine to move next, the step is the running command's meaning on the schedule without that turn. -/
theorem step_engineFirst {s : State} {i : Instr} {snap : Snap} (hrun : s.engine = .running (.command i) snap)
    (ts : List Turn) : step { s with turns := engineFirst ts } = exec i { s with turns := ts } := by
  obtain ⟨hnone, hturn⟩ := stepRunsTheCommand { s with turns := engineFirst ts } i snap hrun
  cases ts with
  | nil => exact hnone rfl
  | cons t ts => exact hturn _ rfl

/-- Settles O4: placing a command's word is its start with the Engine to move next. -/
theorem placedCommandRuns : Obligations.PlacedCommandRuns := by
  intro s i
  refine ⟨decodeTableWord_encode i, ?_⟩
  rw [withFetchWord_encode]
  exact step_engineFirst (startCommand_encode_engine i s) s.turns

/-! ### Register accesses through the bus (20_memory.md R62) -/

theorem toNat_regAddr (r : Reg) : (regAddr r).toNat = regOffset r := by
  have hlt := (regOffset_aligned r).1
  exact Nat.mod_eq_of_lt (by omega)

theorem busTarget_regAddr (c : Config.Caps) (r : Reg) : busTarget c .w32 (regAddr r) = some (.reg r) := by
  obtain ⟨hlt, hmod⟩ := regOffset_aligned r
  simp [busTarget, toNat_regAddr, hlt, hmod, regAt_eq_some.2 rfl]

theorem busWrite_regAddr (r : Reg) (v : Word) (s : State) :
    busWrite .w32 (regAddr r) v s = .ok (writeReg r v s) :=
  busWrite_ok.2 ⟨.reg r, busTarget_regAddr _ r, rfl, rfl⟩

theorem busRead_regAddr (r : Reg) (s : State) : busRead .w32 (regAddr r) s = .ok (readReg r s, s) :=
  busRead_of_target (busTarget_regAddr _ r)

theorem busy_of_idle {s : State} (h : s.engine = .idle) : s.busy = false := by simp [State.busy, h, engineBusy]

theorem writeReg_cmd_of_idle {s : State} (h : s.engine = .idle) (cw : Word) :
    writeReg .cmd cw s = startCommand cw s := by
  simp [writeReg, cmdWrite, busy_of_idle h]

/-! ### Illegal words (O7) -/

theorem opOf_of_illegal {cw : Word}
    (h : cmdOpcode cw = 0#4 ∨ 6 ≤ (cmdOpcode cw).toNat ∨ cmdRsvd cw ≠ 0#28) : opOf cw = .illegal := by
  have hne : ∀ i, cw ≠ encode i := by
    rintro i rfl
    revert h
    cases i <;> decide
  obtain ⟨r, hr⟩ := decode_eq_error hne
  rw [opOf, hr]

theorem engineMove_of_illegal {s : State} {snap : Snap} (h : s.engine = .running .illegal snap) :
    engineMove s = .next (raiseError .illegalCommand 0 0 (zext64 snap.cmd) s) := by
  simp [engineMove, illegalCommand, State.snap, h]

/-- Settles O7: the start keeps the word in its snapshot, and the completion overwrites all else the start wrote. -/
theorem illegalWordCompletes : Obligations.IllegalWordCompletes := by
  intro s cw hidle hcw
  have hrun : (startCommand cw s).engine = .running .illegal (s.sample cw) :=
    congrArg (Engine.running · _) (opOf_of_illegal hcw)
  refine ⟨startCommand cw s, ?_, engineMove_of_illegal hrun⟩
  exact (busWrite_regAddr .cmd cw s).trans (congrArg _ (writeReg_cmd_of_idle hidle cw))

/-! ### `run <OP>` (O53) -/

section
variable {s : State}

theorem hostMove_of_line {l : HostLine} (h : s.host.prog[s.host.pc]? = some l) : hostMove s = hostLine l s := by
  simp [hostMove, h]

theorem step_of_hostLine {l : HostLine} (hts : s.turns = []) (hidle : s.engine = .idle)
    (h : s.host.prog[s.host.pc]? = some l) : step s = hostLine l s := by
  rw [step_of_no_turn hts, busy_of_idle hidle, if_neg Bool.false_ne_true, hostMove_of_line h]

theorem hostLine_wr (r : Reg) (v : Word) : hostLine (hostWr r v) s = .next (hostNext (writeReg r v s)) := by
  simp [hostLine, hostWr, hostValue, busWrite_regAddr]

theorem hostLine_cmd (hidle : s.engine = .idle) (cw : Word) :
    hostLine (hostWr .cmd cw) s = .next (hostNext (startCommand cw s)) := by
  rw [hostLine_wr, writeReg_cmd_of_idle hidle]

theorem hostLine_rd (r : Reg) (x : Nat) : hostLine (hostRd r x) s = .next (hostNext (hostBind x (readReg r s) s)) := by
  simp [hostLine, hostRd, busRead_regAddr]

/-- R26: the field `wait` polls is BUSY. -/
theorem fieldOf_status_busy : fieldOf (readReg .status s) 0 0 = s.busy.toNat := by
  obtain ⟨hbusy, -⟩ := getLsbD_statusWord s
  rw [← hbusy]
  obtain hbit | hbit := Nat.mod_two_eq_zero_or_one (statusWord s).toNat <;>
    simp [fieldOf, readReg, BitVec.getLsbD, hbit]

theorem hostLine_wait (hidle : s.engine = .idle) :
    hostLine (.poll (regAddr .status) 0 0 0) s = .next (hostNext s) := by
  simp [hostLine, busRead_regAddr, fieldOf_status_busy, busy_of_idle hidle]

end

/-- R186: every command answers a next state, IDLE, with the Host and the schedule as they were. -/
theorem exec_completes (i : Instr) (s : State) :
    ∃ t, exec i s = .next t ∧ t.engine = .idle ∧ t.host = s.host ∧ t.turns = s.turns := by
  obtain ⟨t, ht⟩ : ∃ t, exec i s = .next t := by cases i <;> exact ⟨_, rfl⟩
  have hidle : t.engine = .idle := by
    obtain ⟨-, -⟩ := exec_next ht
    rfl
  obtain ⟨hother, hvalidate⟩ := commandsLeaveRegisters i s t ht
  by_cases hi : i = .validate
  · obtain ⟨-, -, -, -, -, -, hhost, hturns⟩ := hvalidate hi
    exact ⟨t, ht, hidle, hhost, hturns⟩
  · exact ⟨t, ht, hidle, (hother hi).host, (hother hi).turns⟩

/-- The Host's bookkeeping over the three lines of `run <OP>`, the command between the first two leaving it alone. -/
theorem hostNext_hostBind_hostNext {s t : State} (x : Nat) (v : Word)
    (hhost : t.host = { s.host with pc := s.host.pc + 1 }) :
    hostNext (hostBind x v (hostNext t)) =
      { t with host := { s.host with pc := s.host.pc + 3, vars := setHostVar s.host.vars x v } } := by
  simp [hostNext, hostGoto, hostBind, hhost]

/-- Settles O53: a CMD write, the Engine's move, a `wait` that sees an IDLE Engine, and a STATUS read. -/
theorem runSequenceEnds : Obligations.RunSequenceEnds := by
  intro s i x hidle hts hprog
  obtain ⟨t2, hexec, hidle2, hhost2, hts2⟩ := exec_completes i (hostNext (startCommand (encode i) s))
  have hcmd : s.host.prog[s.host.pc]? = some (hostWr .cmd (encode i)) := hprog 0 (by decide)
  have hwait : t2.host.prog[t2.host.pc]? = some (.poll (regAddr .status) 0 0 0) := by
    rw [hhost2]
    exact hprog 1 (by decide)
  have hread : (hostNext t2).host.prog[(hostNext t2).host.pc]? = some (hostRd .status x) := by
    rw [hostNext_host, hhost2]
    exact hprog 2 (by decide)
  refine ⟨hostNext (startCommand (encode i) s), t2, hostNext t2, _, ?_, ?_, ?_, ?_, rfl, hexec, rfl, ?_,
    fun y hy => ?_⟩
  · rw [step_of_hostLine hts hidle hcmd, hostLine_cmd hidle]
  · have hrun : (hostNext (startCommand (encode i) s)).engine = .running (.command i) _ :=
      startCommand_encode_engine i s
    obtain ⟨hstep, -⟩ := stepRunsTheCommand _ i _ hrun
    exact (hstep hts).trans hexec
  · rw [step_of_hostLine (hts2.trans hts) hidle2 hwait, hostLine_wait hidle2]
  · rw [step_of_hostLine (s := hostNext t2) (hts2.trans hts) hidle2 hread, hostLine_rd,
      hostNext_hostBind_hostNext x _ hhost2]
    rfl
  · exact hostVar_setHostVar_self _ x _
  · exact hostVar_setHostVar_of_ne _ _ hy

end Sys2Proof.Proofs.Encoding
end

section
/-! PROOFS. VALIDATE and the active profile (40_profile.md R101 to R108): the checks of R101 as conditions on the
profile, what VALIDATE latches or clears, the profile gate, and the invariant of the active profile and PACK_LEN. -/

namespace Sys2Proof.Proofs.ActiveProfile

open Sys2Proof Sys2Proof.Machine Sys2Proof.Proofs.Bus Sys2Proof.Proofs.Steps Sys2Proof.Proofs.Invariants
  Sys2Proof.Proofs.Registers

/-! ### The checks of R101 -/

section
variable {c : Config.Caps} {p : Profile}

/-- R102: a word that is neither NaN nor an infinity denotes the rational the model computes with. -/
theorem isFinite_val_iff (w : Word64) : (val w).isFinite = true ↔ val w = .num (ratOf w) := by
  unfold ratOf
  cases val w <;> simp [FVal.isFinite]

/-- Check 3 of R101 passes: the bounds are finite and in order. -/
theorem rangeInvalid_eq_false_iff :
    rangeInvalid p = false ↔ val p.pmin = .num p.lo ∧ val p.pmax = .num p.hi ∧ p.lo < p.hi := by
  simp only [rangeInvalid, Bool.or_eq_false_iff, Bool.not_eq_false', Bool.and_eq_true, isFinite_val_iff,
    decide_eq_false_iff_not, not_le, and_assoc]
  rfl

/-- Check 3 of R101 in terms of the values the two words denote. -/
theorem rangeInvalid_eq_false_iff_exists :
    rangeInvalid p = false ↔ ∃ lo hi, val p.pmin = .num lo ∧ val p.pmax = .num hi ∧ lo < hi := by
  rw [rangeInvalid_eq_false_iff]
  constructor
  · exact fun h => ⟨_, _, h⟩
  · rintro ⟨lo, hi, hmin, hmax, hlt⟩
    obtain rfl : p.lo = lo := ratOf_of_val hmin
    obtain rfl : p.hi = hi := ratOf_of_val hmax
    exact ⟨hmin, hmax, hlt⟩

theorem ite_some_eq_none_iff {α : Type} {q : Prop} [Decidable q] {a : α} {o : Option α} :
    (if q then some a else o) = none ↔ ¬q ∧ o = none := by
  split_ifs with h <;> simp [h]

/-- R101, R108: VALIDATE finds no failing check exactly on the profiles that meet the invariant. -/
theorem profileError?_eq_none_iff : profileError? c p = none ↔ ProfileInv c p := by
  rw [profileError?]
  simp only [ite_some_eq_none_iff, Bool.not_eq_true, rangeInvalid_eq_false_iff, not_or, not_and,
    not_lt, and_true]
  constructor
  · rintro ⟨⟨hpos, hle⟩, ⟨hw, hh⟩, ⟨hlo, hhi, hlt⟩, ⟨hlayout, hpolicy⟩, hsub, hphase, hcode, hpack⟩
    exact ⟨Nat.pos_of_ne_zero hpos, hle, Nat.pos_of_ne_zero hw, Nat.pos_of_ne_zero hh, hlo, hhi, hlt, hlayout,
      hpolicy, hsub, hphase, hcode, hpack⟩
  · intro h
    exact ⟨⟨Nat.ne_of_gt h.bits_pos, h.bits_le⟩, ⟨Nat.ne_of_gt h.width_pos, Nat.ne_of_gt h.height_pos⟩,
      ⟨h.lo_finite, h.hi_finite, h.lo_lt_hi⟩, ⟨h.layout_legal, h.policy_legal⟩, h.subbyte_bits, h.fits_phase,
      h.fits_code, h.fits_pack⟩

/-- R104: the packed length is the only number between the bounds of the two ceilings. -/
theorem packedBytes_eq {l : Nat} (hlegal : p.layout ≠ .reserved)
    (hsub : p.layout = .packedSubbyte → p.bits * p.pixels ≤ 8 * l ∧ 8 * l < p.bits * p.pixels + 8)
    (hmulti : p.layout ≠ .packedSubbyte → ∃ b, l = p.pixels * b ∧ p.bits ≤ 8 * b ∧ 8 * b < p.bits + 8) :
    p.packedBytes = l := by
  unfold Profile.packedBytes
  cases hl : p.layout with
  | packedSubbyte =>
    obtain ⟨hle, hlt⟩ := hsub hl
    rw [packedLength]
    omega
  | leMultibyte | beMultibyte =>
    obtain ⟨b, rfl, hle, hlt⟩ := hmulti (by simp [hl])
    rw [packedLength, show (p.bits + 7) / 8 = b by omega]
  | reserved => exact absurd hl hlegal

/-- R7: the packed length of a legal profile fits in PACK_LEN. -/
theorem packedBytes_lt (hc : capsWellFormed c = true) (hp : ProfileInv c p) : p.packedBytes < 2 ^ 32 := by
  obtain ⟨-, -, hpack, -⟩ := caps_bounds hc
  have hfits := hp.fits_pack
  omega

end

/-! ### VALIDATE (O8 to O10) -/

section
variable {s : State}

/-- R103: VALIDATE of a legal profile. -/
theorem exec_validate_of_legal (h : ProfileInv s.caps s.snap.cfg) :
    exec .validate s = .next (completeOk (latchProfile s.snap.cfg s)) := by
  simp [exec, execValidate, validateCommand, profileError?_eq_none_iff.2 h]

/-- R105: VALIDATE of a profile with a failing check. -/
theorem exec_validate_of_error {reason : Nat} {expected actual : Word64}
    (h : profileError? s.caps s.snap.cfg = some (reason, expected, actual)) :
    exec .validate s = .next (raiseError .invalidProfile reason expected actual (invalidateProfile s)) := by
  simp [exec, execValidate, validateCommand, h]

/-- Everything VALIDATE can do. -/
theorem exec_validate_cases (s : State) :
    (ProfileInv s.caps s.snap.cfg ∧ exec .validate s = .next (completeOk (latchProfile s.snap.cfg s))) ∨
    (∃ e, profileError? s.caps s.snap.cfg = some e ∧
      exec .validate s = .next (raiseError .invalidProfile e.1 e.2.1 e.2.2 (invalidateProfile s))) := by
  cases he : profileError? s.caps s.snap.cfg with
  | none =>
    have hlegal := profileError?_eq_none_iff.1 he
    exact .inl ⟨hlegal, exec_validate_of_legal hlegal⟩
  | some e => exact .inr ⟨e, rfl, exec_validate_of_error he⟩

end

/-- Settles O8: the premises are R108's facts, and they fix the packed length. -/
theorem validateLatches : Obligations.ValidateLatches := by
  rintro s p lo hi l rfl hpos hle hw hh hmin hmax hlt hlayout hpolicy hsubBits hphase hcode hsub hmulti hpack
  obtain rfl := packedBytes_eq hlayout hsub hmulti
  obtain ⟨hlo, hhi, hlohi⟩ :=
    rangeInvalid_eq_false_iff.1 (rangeInvalid_eq_false_iff_exists.2 ⟨lo, hi, hmin, hmax, hlt⟩)
  exact exec_validate_of_legal
    ⟨hpos, hle, hw, hh, hlo, hhi, hlohi, hlayout, hpolicy, hsubBits, hphase, hcode, hpack⟩

/-- Settles O9: each clause is the branch of the ordered checks that its premises select. -/
theorem validateRefuses : Obligations.ValidateRefuses := by
  rintro s p rfl
  intro fails depthOk sizeOk rangeOk codesOk layoutOk legal
  have hfails {reason : Nat} {expected actual : Word64}
      (h : profileError? s.caps s.snap.cfg = some (reason, expected, actual)) : fails reason expected actual :=
    exec_validate_of_error h
  have hdepth : (s.snap.cfg.bits = 0 ∨ Config.maxBitDepth < s.snap.cfg.bits) ↔ ¬depthOk := by
    simp only [Config.maxBitDepth, depthOk]
    omega
  have hsize : (s.snap.cfg.width = 0 ∨ s.snap.cfg.height = 0) ↔ ¬sizeOk := Decidable.or_iff_not_not_and_not
  have hrange : rangeInvalid s.snap.cfg = false ↔ rangeOk := rangeInvalid_eq_false_iff_exists
  have hcodes : (s.snap.cfg.layout = .reserved ∨ s.snap.cfg.policy = .reserved) ↔ ¬codesOk :=
    Decidable.or_iff_not_not_and_not
  have hlayout : (s.snap.cfg.layout = .packedSubbyte ∧ 8 < s.snap.cfg.bits) ↔ ¬layoutOk := not_not.symm
  have hchecks := profileError?.eq_1 s.caps s.snap.cfg
  simp only [hdepth, hsize, hcodes, hlayout] at hchecks
  refine ⟨fun hd => ?_, fun hd hs => ?_, fun hd hs hr => ?_, fun hd hs hr hc => ?_, fun hd hs hr hc hl => ?_,
    fun ⟨hd, hs, hr, hc, hl⟩ hphase => ?_, fun ⟨hd, hs, hr, hc, hl⟩ hphase hcode => ?_,
    fun ⟨hd, hs, hr, hc, hl⟩ hphase hcode hpack => ?_⟩
  · exact hfails (by simp [hchecks, hd])
  · exact hfails (by simp [hchecks, hd, hs, zext64])
  · exact hfails (by simp [hchecks, hd, hs, eq_true_of_ne_false (mt hrange.1 hr)])
  · exact hfails (by simp [hchecks, hd, hs, hrange.2 hr, hc])
  · exact hfails (by simp [hchecks, hd, hs, hrange.2 hr, hc, hl])
  · exact hfails (by simp [hchecks, hd, hs, hrange.2 hr, hc, hl, hphase])
  · exact hfails (by simp [hchecks, hd, hs, hrange.2 hr, hc, hl, hphase.not_gt, hcode])
  · exact hfails (by simp [hchecks, hd, hs, hrange.2 hr, hc, hl, hphase.not_gt, hcode.not_gt, hpack])

/-- Settles O10: the second run samples the staging registers the first one checked, under the same parameters. -/
theorem validateRepeats : Obligations.ValidateRepeats := by
  intro s t hcfg h
  obtain ⟨hp, he⟩ | ⟨e, hfail, he⟩ := exec_validate_cases s
  · rw [hcfg] at hp he
    cases he.symm.trans h
    exact ⟨_, exec_validate_of_legal hp, rfl, rfl, rfl, rfl, rfl, rfl, rfl⟩
  · rw [hcfg] at hfail
    cases he.symm.trans h
    exact ⟨_, exec_validate_of_error hfail, rfl, rfl, rfl, rfl, rfl, rfl, rfl⟩

/-! ### The profile gate (O11) -/

/-- Settles O11: each of the four commands begins with the gate. -/
theorem profileGateStops : Obligations.ProfileGateStops := by
  intro s i hi hinvalid
  have hgate (k : State → State) : profileGate s k = raiseError .invalidProfile 7 0 0 s :=
    if_neg (by simp [hinvalid])
  cases i with
  | validate => exact absurd rfl hi
  | quantize | dequantize | pack | unpack => exact congrArg Host.Outcome.next (hgate _)

/-! ### The invariant (O55) -/

section
variable {s t u : State}

/-- The invariant speaks of PROFILE_VALID, the active profile, PACK_LEN and the parameters only. -/
theorem activeInv_congr (h : ActiveInv s) (hvalid : t.profileValid = s.profileValid) (hact : t.act = s.act)
    (hlen : t.packLen = s.packLen) (hcaps : t.caps = s.caps) : ActiveInv t := by
  constructor <;> simp only [hvalid, hact, hlen, hcaps]
  exacts [h.caps_legal, h.valid, h.valid_length, h.invalid_profile, h.invalid_length]

theorem activeInv_latchProfile {p : Profile} (hc : capsWellFormed s.caps = true) (hp : ProfileInv s.caps p) :
    ActiveInv (latchProfile p s) where
  caps_legal := hc
  valid _ := hp
  valid_length _ := Nat.mod_eq_of_lt (packedBytes_lt hc hp)
  invalid_profile h := nomatch h
  invalid_length h := nomatch h

theorem activeInv_invalidateProfile (hc : capsWellFormed s.caps = true) : ActiveInv (invalidateProfile s) where
  caps_legal := hc
  valid h := nomatch h
  valid_length h := nomatch h
  invalid_profile _ := rfl
  invalid_length _ := rfl

theorem activeInv_completeWith (k : ErrKind) (index : Word) (expected actual : Word64) (h : ActiveInv s) :
    ActiveInv (completeWith k index expected actual s) := activeInv_congr h rfl rfl rfl rfl

/-- VALIDATE establishes the invariant, and every other command leaves its fields. -/
theorem activeInv_exec {i : Instr} (h : ActiveInv s) (ht : exec i s = .next t) : ActiveInv t := by
  by_cases hi : i = .validate
  · subst hi
    obtain ⟨hp, he⟩ | ⟨e, -, he⟩ := exec_validate_cases s <;> rw [he] at ht <;> cases ht
    · exact activeInv_completeWith _ _ _ _ (activeInv_latchProfile h.caps_legal hp)
    · exact activeInv_completeWith _ _ _ _ (activeInv_invalidateProfile h.caps_legal)
  · obtain ⟨hother, -⟩ := commandsLeaveRegisters i s t ht
    have hsame := hother hi
    exact activeInv_congr h hsame.profileValid hsame.act hsame.packLen hsame.caps

theorem activeInv_engineMove (h : ActiveInv s) (ht : engineMove s = .next t) : ActiveInv t := by
  obtain ⟨-, he⟩ | ⟨i, snap, -, he⟩ | ⟨snap, -, he⟩ := engineMove_cases s <;> rw [he] at ht
  · cases ht
    exact h
  · exact activeInv_exec h ht
  · cases ht
    exact activeInv_completeWith _ _ _ _ h

theorem activeInv_hostWork (h : ActiveInv s) (hu : HostWork s u) : ActiveInv u := by
  cases hu with
  | accessed hw =>
    obtain ⟨m, d, rfl⟩ := rangeWrites_frame hw
    exact activeInv_congr h rfl rfl rfl rfl
  | wroteReg r v =>
    obtain ⟨hact, hlen, hvalid, -, hcaps⟩ := writeReg_frame r v s
    exact activeInv_congr h hvalid hact hlen hcaps

end

/-- Settles O55: a VALIDATE and a reset establish the invariant, and every other move leaves its fields. -/
theorem stepKeepsActiveProfileInvariants : Obligations.StepKeepsActiveProfileInvariants := by
  intro s t hinv h
  obtain ⟨ts, hmove⟩ := step_next h
  have hturn := activeInv_turns ts hinv
  obtain ⟨-, rfl⟩ | he | hh := hmove
  · exact activeInv_congr (activeInv_resetWith hinv.caps_legal) rfl rfl rfl rfl
  · exact activeInv_engineMove hturn he
  · obtain ⟨u, agent, hwork, rfl⟩ := hostMove_work hh
    exact activeInv_congr (activeInv_hostWork hturn hwork) rfl rfl rfl rfl

end Sys2Proof.Proofs.ActiveProfile
end

section
/-! PROOFS. The phase-to-code map and its inverse (41_quantize.md R120 to R134): the policy step brings a sample into
`[lo, hi]`, the scaling takes `[lo, hi]` onto `[0, M]` in order, and `fl64` gives a bound of the range back as its own
word. -/

namespace Sys2Proof.Proofs.PhaseMap

open Sys2Proof Sys2Proof.Machine Sys2Proof.Proofs.Numbers

/-! ### `rne` in order -/

theorem rne_intCast (n : ℤ) : rne (n : ℚ) = n := le_antisymm (rne_le le_rfl) (le_rne le_rfl)

theorem rne_mono : Monotone rne := by
  intro a b hab
  by_contra! hlt
  have ha := le_of_abs_le (abs_sub_comm a _ ▸ (abs_sub_rne a).1)
  have hb := le_of_abs_le (abs_sub_rne b).1
  have hstep : (rne b : ℚ) + 1 ≤ rne a := by exact_mod_cast hlt
  obtain rfl : a = b := by linarith
  exact lt_irrefl _ hlt

/-! ### The policy step (R122 to R124) -/

/-- `u` is what the policy makes of a finite sample `v` in its domain. -/
inductive PolicyStep (p : Profile) (v : ℚ) : ℚ → Prop where
  | clamp : p.policy = .clamp → PolicyStep p v (clampValue p v)
  | wrap : p.policy = .wrap → PolicyStep p v (wrapValue p v)
  | error : p.policy = .error → p.lo ≤ v → v ≤ p.hi → PolicyStep p v v

section
variable {p : Profile} {w : Word64} {v u : ℚ} {k : Word}

theorem qmap_num (h : val w = .num v) : qmap p w = qmapNum p v := by simp [qmap, h]

theorem qmap_nan (h : val w = .nan) : qmap p w = .ood 0 := by simp [qmap, h]

theorem qmap_posInf (h : val w = .posInf) : qmap p w = qmapInf p p.pmax p.hi := by simp [qmap, h]

theorem qmap_negInf (h : val w = .negInf) : qmap p w = qmapInf p p.pmin p.lo := by simp [qmap, h]

theorem qmapInf_of_clamp (bound : Word64) (u : ℚ) (h : p.policy = .clamp) : qmapInf p bound u = codeOf p u := by
  simp [qmapInf, h]

theorem qmapInf_of_not_clamp (bound : Word64) (u : ℚ) (h : p.policy = .wrap ∨ p.policy = .error) :
    qmapInf p bound u = .ood bound := by
  rcases h with h | h <;> simp [qmapInf, h]

theorem qmapInf_eq_code {bound : Word64} (h : qmapInf p bound u = .code k) :
    k = BitVec.ofInt 32 (scaleCode p u) := by
  cases hp : p.policy with
  | clamp => exact (QResult.code.inj ((qmapInf_of_clamp bound u hp).symm.trans h)).symm
  | wrap => exact nomatch (qmapInf_of_not_clamp bound u (.inl hp)).symm.trans h
  | error => exact nomatch (qmapInf_of_not_clamp bound u (.inr hp)).symm.trans h
  | reserved => simp [qmapInf, hp] at h

theorem qmapNum_of_policyStep (h : PolicyStep p v u) : qmapNum p v = codeOf p u := by
  cases h with
  | clamp hp => simp [qmapNum, hp]
  | wrap hp => simp [qmapNum, hp]
  | error hp hlo hhi => simp [qmapNum, hp, not_lt.mpr hlo, not_lt.mpr hhi]

theorem qmap_of_policyStep (hw : val w = .num v) (h : PolicyStep p v u) : qmap p w = codeOf p u :=
  (qmap_num hw).trans (qmapNum_of_policyStep h)

theorem exists_policyStep_of_code (h : qmapNum p v = .code k) :
    ∃ u, PolicyStep p v u ∧ k = BitVec.ofInt 32 (scaleCode p u) := by
  cases hp : p.policy with
  | clamp =>
    have hu := PolicyStep.clamp (v := v) hp
    exact ⟨_, hu, (QResult.code.inj ((qmapNum_of_policyStep hu).symm.trans h)).symm⟩
  | wrap =>
    have hu := PolicyStep.wrap (v := v) hp
    exact ⟨_, hu, (QResult.code.inj ((qmapNum_of_policyStep hu).symm.trans h)).symm⟩
  | error =>
    simp only [qmapNum, hp] at h
    split_ifs at h with hhi hlo
    exact ⟨v, .error hp (not_lt.mp hlo) (not_lt.mp hhi), (QResult.code.inj h).symm⟩
  | reserved => simp [qmapNum, hp] at h

theorem clampValue_of_mem (hlo : p.lo ≤ v) (hhi : v ≤ p.hi) : clampValue p v = v := by
  rw [clampValue, max_eq_left hlo, min_eq_left hhi]

theorem policyStep_of_mem (hp : p.policy = .clamp ∨ p.policy = .error) (hlo : p.lo ≤ v) (hhi : v ≤ p.hi) :
    PolicyStep p v v := by
  rcases hp with hp | hp
  · have h := PolicyStep.clamp (v := v) hp
    rwa [clampValue_of_mem hlo hhi] at h
  · exact .error hp hlo hhi

theorem clampValue_mono (p : Profile) : Monotone (clampValue p) := fun _ _ h =>
  min_le_min_right _ (max_le_max_right _ h)

theorem wrapValue_eq (p : Profile) (v : ℚ) :
    wrapValue p v = v - (⌊(v - p.lo) / p.period⌋ : ℚ) * p.period := by
  change p.lo + ((v - p.lo) - p.period * (⌊(v - p.lo) / p.period⌋ : ℚ)) = _
  ring

end

section
variable {p : Profile} (hlt : p.lo < p.hi)
include hlt

theorem period_pos : 0 < p.period := sub_pos.mpr hlt

/-- R123: a sample of the `n`-th period loses `n` periods. -/
theorem wrapValue_of_mem_period {v : ℚ} {n : ℤ} (hlo : p.lo + n * p.period ≤ v)
    (hhi : v < p.hi + n * p.period) : wrapValue p v = v - n * p.period := by
  have hfloor : ⌊(v - p.lo) / p.period⌋ = n := by
    rw [Int.floor_eq_iff, le_div_iff₀ (period_pos hlt), div_lt_iff₀ (period_pos hlt)]
    exact ⟨by linarith, by unfold Profile.period at *; linarith⟩
  rw [wrapValue_eq, hfloor]

theorem wrapValue_mem (v : ℚ) : p.lo ≤ wrapValue p v ∧ wrapValue p v < p.hi := by
  have hle := (le_div_iff₀ (period_pos hlt)).mp (Int.floor_le ((v - p.lo) / p.period))
  have hgt := (div_lt_iff₀ (period_pos hlt)).mp (Int.lt_floor_add_one ((v - p.lo) / p.period))
  rw [wrapValue_eq]
  exact ⟨by linarith, by unfold Profile.period at *; linarith⟩

theorem wrapValue_lo_add (n : ℤ) : wrapValue p (p.lo + n * p.period) = p.lo := by
  rw [wrapValue_of_mem_period hlt le_rfl (by linarith), add_sub_cancel_right]

theorem wrapValue_hi : wrapValue p p.hi = p.lo := by
  simpa [Profile.period] using wrapValue_lo_add hlt 1

theorem policyStep_mem {v u : ℚ} (h : PolicyStep p v u) : p.lo ≤ u ∧ u ≤ p.hi := by
  cases h with
  | clamp _ => exact ⟨le_min (le_max_right _ _) hlt.le, min_le_right _ _⟩
  | wrap _ => exact ⟨(wrapValue_mem hlt v).1, (wrapValue_mem hlt v).2.le⟩
  | error _ hlo hhi => exact ⟨hlo, hhi⟩

/-! ### The scaling (R127, R128) -/

theorem scaleCode_mono : Monotone (scaleCode p) := fun _ _ h => rne_mono <|
  mul_le_mul_of_nonneg_right (div_le_div_of_nonneg_right (sub_le_sub_right h _) (period_pos hlt).le)
    (Nat.cast_nonneg _)

omit hlt in
theorem scaleCode_lo (p : Profile) : scaleCode p p.lo = 0 := by
  simpa [scaleCode] using rne_intCast 0

theorem scaleCode_hi : scaleCode p p.hi = p.maxCode := by
  have hone : (p.hi - p.lo) / p.period = 1 := div_self (period_pos hlt).ne'
  rw [scaleCode, hone, one_mul]
  exact rne_intCast p.maxCode

omit hlt in
theorem codeOf_lo (p : Profile) : codeOf p p.lo = .code 0 := by
  rw [codeOf, scaleCode_lo]
  rfl

theorem codeOf_hi : codeOf p p.hi = .code (BitVec.ofNat 32 p.maxCode) := by
  rw [codeOf, scaleCode_hi hlt, BitVec.ofInt_natCast]

/-- R128: the scaling of the range stays in `[0, M]`. -/
theorem scaleCode_mem {u : ℚ} (hlo : p.lo ≤ u) (hhi : u ≤ p.hi) :
    0 ≤ scaleCode p u ∧ scaleCode p u ≤ p.maxCode :=
  ⟨scaleCode_lo p ▸ scaleCode_mono hlt hlo, scaleCode_hi hlt ▸ scaleCode_mono hlt hhi⟩

/-- R132: a code stands within half a code step of the value it was scaled from. -/
theorem abs_sub_scaleCode {u : ℚ} (hM : 0 < p.maxCode) :
    |p.lo + (scaleCode p u : ℚ) * p.period / p.maxCode - u| ≤ p.period / (2 * p.maxCode) := by
  have hP := period_pos hlt
  have hM' : (0 : ℚ) < p.maxCode := by exact_mod_cast hM
  have hhalf := (abs_sub_rne ((u - p.lo) / p.period * p.maxCode)).1
  have hback : p.lo + (scaleCode p u : ℚ) * p.period / p.maxCode - u =
      -(((u - p.lo) / p.period * p.maxCode - scaleCode p u) * (p.period / p.maxCode)) := by
    field_simp
    ring
  calc |p.lo + (scaleCode p u : ℚ) * p.period / p.maxCode - u|
      = |(u - p.lo) / p.period * p.maxCode - scaleCode p u| * (p.period / p.maxCode) := by
        rw [hback, abs_neg, abs_mul, abs_of_pos (div_pos hP hM')]
    _ ≤ 1 / 2 * (p.period / p.maxCode) := mul_le_mul_of_nonneg_right hhalf (div_pos hP hM').le
    _ = p.period / (2 * p.maxCode) := by field_simp

end

section
variable {c : Config.Caps} {p : Profile} (hp : ProfileInv c p)
include hp

theorem maxCode_bounds : 0 < p.maxCode ∧ p.maxCode < 2 ^ 32 := by
  have hlo := Nat.pow_le_pow_right two_pos hp.bits_pos
  have hhi := Nat.pow_le_pow_right two_pos hp.bits_le
  unfold Profile.maxCode
  omega

theorem toNat_scaleCode {u : ℚ} (hlo : p.lo ≤ u) (hhi : u ≤ p.hi) :
    ((BitVec.ofInt 32 (scaleCode p u)).toNat : ℤ) = scaleCode p u := by
  have hmem := scaleCode_mem hp.lo_lt_hi hlo hhi
  have hM := maxCode_bounds hp
  rw [BitVec.toNat_ofInt]
  omega

/-- A code comes from a value of the range (R128), also for an infinite sample. -/
theorem exists_value_of_code {w : Word64} {k : Word} (h : qmap p w = .code k) :
    ∃ u, p.lo ≤ u ∧ u ≤ p.hi ∧ k = BitVec.ofInt 32 (scaleCode p u) := by
  unfold qmap at h
  split at h
  · cases h
  · exact ⟨p.hi, hp.lo_lt_hi.le, le_rfl, qmapInf_eq_code h⟩
  · exact ⟨p.lo, le_rfl, hp.lo_lt_hi.le, qmapInf_eq_code h⟩
  · obtain ⟨u, hstep, rfl⟩ := exists_policyStep_of_code h
    obtain ⟨hlo, hhi⟩ := policyStep_mem hp.lo_lt_hi hstep
    exact ⟨u, hlo, hhi, rfl⟩

end

/-- Settles O20: each clause is the branch of the map that its policy and its sample select. -/
theorem qmapByPolicy : Obligations.QmapByPolicy := by
  intro p w hlt scaled
  refine ⟨qmap_nan, fun hp => ⟨fun v hw => ?_, fun hw => ?_, fun hw => ?_⟩,
    fun hp => ⟨fun hw => ?_, fun hw => ?_⟩,
    fun hp => ⟨fun v hw hlo hhi => ?_, fun v hw hhi => ?_, fun v hw hlo => ?_, fun hw => ?_, fun hw => ?_⟩⟩
  · exact qmap_of_policyStep hw (.clamp hp)
  · exact (qmap_posInf hw).trans (qmapInf_of_clamp _ _ hp)
  · exact (qmap_negInf hw).trans (qmapInf_of_clamp _ _ hp)
  · exact (qmap_posInf hw).trans (qmapInf_of_not_clamp _ _ (.inl hp))
  · exact (qmap_negInf hw).trans (qmapInf_of_not_clamp _ _ (.inl hp))
  · exact qmap_of_policyStep hw (.error hp hlo hhi)
  · simp [qmap_num hw, qmapNum, hp, hhi]
  · simp [qmap_num hw, qmapNum, hp, hlo, (hlo.trans hlt).not_gt]
  · exact (qmap_posInf hw).trans (qmapInf_of_not_clamp _ _ (.inr hp))
  · exact (qmap_negInf hw).trans (qmapInf_of_not_clamp _ _ (.inr hp))

/-- Settles O21: `wrapValue` takes off the whole periods below the sample. -/
theorem wrapReducesByPeriods : Obligations.WrapReducesByPeriods := by
  intro p w v hlt hp hw
  obtain ⟨hlo, hhi⟩ := wrapValue_mem hlt v
  exact ⟨wrapValue p v, _, wrapValue_eq p v, hlo, hhi, rfl, fun hv => hv ▸ wrapValue_hi hlt,
    qmap_of_policyStep hw (.wrap hp)⟩

/-- Settles O22: at the bounds the policy step gives `lo` or `hi`, whose scalings are 0 and `M`. -/
theorem qmapAtTheBounds : Obligations.QmapAtTheBounds := by
  intro c p w v hinv hw
  have hlt := hinv.lo_lt_hi
  have hzero (hstep : PolicyStep p v p.lo) : qmap p w = .code 0 :=
    (qmap_of_policyStep hw hstep).trans (codeOf_lo p)
  have hmax (hstep : PolicyStep p v p.hi) : qmap p w = .code (BitVec.ofNat 32 p.maxCode) :=
    (qmap_of_policyStep hw hstep).trans (codeOf_hi hlt)
  have hclampLo (hp : p.policy = .clamp) (hv : v ≤ p.lo) : PolicyStep p v p.lo := by
    simpa [clampValue, hv, hlt.le] using PolicyStep.clamp (v := v) hp
  have hclampHi (hp : p.policy = .clamp) (hv : p.hi ≤ v) : PolicyStep p v p.hi := by
    simpa [clampValue, hv] using PolicyStep.clamp (v := v) hp
  have hwrap (hp : p.policy = .wrap) (n : ℤ) (hv : v = p.lo + n * p.period) : PolicyStep p v p.lo := by
    simpa [hv, wrapValue_lo_add hlt] using PolicyStep.wrap (v := v) hp
  refine ⟨fun hv => hzero ?_, fun hp hv => hzero (hclampLo hp hv), fun hp hv => hmax (hclampHi hp hv),
    fun hp hv => hmax (hv ▸ .error hp (hv ▸ hlt.le) hv.le), fun hp n hv => hzero (hwrap hp n hv)⟩
  cases hp : p.policy with
  | clamp => exact hclampLo hp hv.le
  | wrap => exact hwrap hp 0 (by simpa using hv)
  | error => exact hv ▸ .error hp hv.ge (hv ▸ hlt.le)
  | reserved => exact absurd hp hinv.policy_legal

/-- Settles O23: a code is the scaling of a value of the range. -/
theorem qmapCodesInRange : Obligations.QmapCodesInRange := by
  intro c p w k hinv h
  obtain ⟨u, hlo, hhi, rfl⟩ := exists_value_of_code hinv h
  have hcast := toNat_scaleCode hinv hlo hhi
  obtain ⟨-, hle⟩ := scaleCode_mem hinv.lo_lt_hi hlo hhi
  rw [← hcast] at hle
  exact Int.ofNat_le.mp hle

/-- Settles O24: the code of the value after the policy step, which for a sample of the range is the sample and
under WRAP the sample less whole periods. -/
theorem roundTripWithinHalfStep : Obligations.RoundTripWithinHalfStep := by
  intro c p w v hinv hw halfStep back
  have hlt := hinv.lo_lt_hi
  have hround {u : ℚ} (hstep : PolicyStep p v u) :
      ∃ k, qmap p w = .code k ∧ |back k - u| ≤ halfStep := by
    refine ⟨_, qmap_of_policyStep hw hstep, ?_⟩
    obtain ⟨hlo, hhi⟩ := policyStep_mem hlt hstep
    have hcast : ((BitVec.ofInt 32 (scaleCode p u)).toNat : ℚ) = scaleCode p u := by
      exact_mod_cast toNat_scaleCode hinv hlo hhi
    simp only [back, hcast]
    exact abs_sub_scaleCode hlt (maxCode_bounds hinv).1
  refine ⟨fun hp hlo hhi => hround (policyStep_of_mem hp hlo hhi), fun hp => ?_⟩
  obtain ⟨k, hk, hnear⟩ := hround (.wrap hp)
  obtain ⟨hlo, hhi⟩ := wrapValue_mem hlt v
  rw [wrapValue_eq] at hlo hhi hnear
  exact ⟨k, _, hk, hlo, hhi, hnear⟩

/-- R134: the policy step keeps the order, under WRAP within one period. -/
theorem policyStep_mono {p : Profile} {v v' u u' : ℚ} (hlt : p.lo < p.hi) (hv : v ≤ v')
    (h : PolicyStep p v u) (h' : PolicyStep p v' u')
    (hperiod : p.policy = .wrap → ∃ n : ℤ, p.lo + n * p.period ≤ v ∧ v' < p.hi + n * p.period) : u ≤ u' := by
  cases h with
  | clamp hp =>
    cases h' with
    | clamp _ => exact clampValue_mono p hv
    | wrap hp' | error hp' => simp [hp] at hp'
  | wrap hp =>
    cases h' with
    | wrap _ =>
      obtain ⟨n, hlo, hhi⟩ := hperiod hp
      rw [wrapValue_of_mem_period hlt hlo (hv.trans_lt hhi),
        wrapValue_of_mem_period hlt (hlo.trans hv) hhi]
      exact sub_le_sub_right hv _
    | clamp hp' | error hp' => simp [hp] at hp'
  | error hp =>
    cases h' with
    | error _ => exact hv
    | clamp hp' | wrap hp' => simp [hp] at hp'

/-- Settles O25: the policy step and the scaling both keep the order. -/
theorem qmapMonotone : Obligations.QmapMonotone := by
  intro c p w w' v v' k k' hinv hw hw' hv hk hk' hpolicy
  have hlt := hinv.lo_lt_hi
  obtain ⟨u, hstep, rfl⟩ := exists_policyStep_of_code ((qmap_num hw).symm.trans hk)
  obtain ⟨u', hstep', rfl⟩ := exists_policyStep_of_code ((qmap_num hw').symm.trans hk')
  obtain ⟨hlo, hhi⟩ := policyStep_mem hlt hstep
  obtain ⟨hlo', hhi'⟩ := policyStep_mem hlt hstep'
  have hle : u ≤ u' := policyStep_mono hlt hv hstep hstep' fun hwrap => by
    simpa [hwrap, Profile.period] using hpolicy
  have hcodes := scaleCode_mono hlt hle
  rw [← toNat_scaleCode hinv hlo hhi, ← toNat_scaleCode hinv hlo' hhi'] at hcodes
  exact Int.ofNat_le.mp hcodes

/-! ### Words and their values (O26) -/

theorem f64Units_lt_of_exp_lt {a b : Word64} (h : f64Exp a < f64Exp b) : f64Units a < f64Units b := by
  have hfrac := f64Frac_lt a
  have hb : 2 ^ 52 * 2 ^ (f64Exp b - 1) ≤ f64Units b := by
    rw [f64Units_normal (by omega)]
    exact Nat.mul_le_mul_right _ (Nat.le_add_right _ _)
  refine lt_of_lt_of_le ?_ hb
  by_cases ha : f64Exp a = 0
  · rw [f64Units_subnormal ha]
    exact hfrac.trans_le (Nat.le_mul_of_pos_right _ (by positivity))
  · rw [f64Units_normal ha]
    calc (2 ^ 52 + f64Frac a) * 2 ^ (f64Exp a - 1)
        < 2 ^ 53 * 2 ^ (f64Exp a - 1) := Nat.mul_lt_mul_of_pos_right (by omega) (by positivity)
      _ = 2 ^ 52 * 2 ^ (f64Exp a - 1 + 1) := by rw [pow_succ' 2 (f64Exp a - 1)]; ring
      _ ≤ 2 ^ 52 * 2 ^ (f64Exp b - 1) := Nat.mul_le_mul_left _ (Nat.pow_le_pow_right two_pos (by omega))

theorem magnitude_eq_of_f64Units_eq {a b : Word64} (h : f64Units a = f64Units b) :
    a.toNat % 2 ^ 63 = b.toNat % 2 ^ 63 := by
  have hexp : f64Exp a = f64Exp b := by
    rcases lt_trichotomy (f64Exp a) (f64Exp b) with hlt | heq | hgt
    · exact absurd h (f64Units_lt_of_exp_lt hlt).ne
    · exact heq
    · exact absurd h (f64Units_lt_of_exp_lt hgt).ne'
  have hfrac : f64Frac a = f64Frac b := by
    by_cases hb : f64Exp b = 0
    · rwa [f64Units_subnormal hb, f64Units_subnormal (hexp.trans hb)] at h
    · rw [f64Units_normal hb, f64Units_normal (hexp ▸ hb), hexp] at h
      have := Nat.eq_of_mul_eq_mul_right (by positivity) h
      omega
  rw [f64Exp_eq, f64Exp_eq] at hexp
  rw [f64Frac_eq, f64Frac_eq] at hfrac
  omega

/-- The word -0.0. -/
abbrev negZero : Word64 := 0x8000000000000000#64

theorem f64Sign_eq (w : Word64) : f64Sign w = decide (2 ^ 63 ≤ w.toNat) := by
  have := w.isLt
  rw [f64Sign, BitVec.getLsbD, Nat.testBit_eq_decide_div_mod_eq, decide_eq_decide]
  omega

theorem f64Units_pos {w : Word64} (h : w.toNat % 2 ^ 63 ≠ 0) : 0 < f64Units w := by
  refine Nat.pos_of_ne_zero fun h0 => h ?_
  exact magnitude_eq_of_f64Units_eq (b := 0#64) (h0.trans (by decide))

/-- Two finite words with one value are the same word, but for the two zeros. -/
theorem eq_of_val_eq {a b : Word64} {q : ℚ} (ha : val a = .num q) (hb : val b = .num q)
    (ha0 : a ≠ negZero) (hb0 : b ≠ negZero) : a = b := by
  obtain ⟨-, rfl⟩ := val_eq_num_iff.mp ha
  obtain ⟨-, hq⟩ := val_eq_num_iff.mp hb
  have hunits : signedUnits a = signedUnits b := by
    rw [div_left_inj' (by positivity)] at hq
    exact_mod_cast hq
  have hmag : a.toNat % 2 ^ 63 = b.toNat % 2 ^ 63 := by
    apply magnitude_eq_of_f64Units_eq
    rw [← natAbs_signedUnits, hunits, natAbs_signedUnits]
  have ha63 : a.toNat ≠ 2 ^ 63 := fun h => ha0 (BitVec.eq_of_toNat_eq h)
  have hb63 : b.toNat ≠ 2 ^ 63 := fun h => hb0 (BitVec.eq_of_toNat_eq h)
  have haLt := a.isLt
  have hbLt := b.isLt
  apply BitVec.eq_of_toNat_eq
  by_cases hzero : a.toNat % 2 ^ 63 = 0
  · omega
  · have hsign : 2 ^ 63 ≤ a.toNat ↔ 2 ^ 63 ≤ b.toNat := by
      have haPos := f64Units_pos hzero
      have hbPos := f64Units_pos (hmag ▸ hzero)
      simp only [signedUnits, f64Sign_eq, decide_eq_true_eq] at hunits
      split_ifs at hunits <;> omega
    omega

theorem val_negZero : val negZero = .num 0 := by decide +kernel

theorem fl64_ne_negZero {q : ℚ} (hmax : absUnits q ≤ maxUnits) : fl64 q ≠ negZero := by
  intro h
  have hlt := f64OfUnits_lt (absUnits_nonneg q) hmax
  have hnat : (fl64 q).toNat = 2 ^ 63 := congrArg BitVec.toNat h
  rw [toNat_fl64 hmax] at hnat
  split_ifs at hnat <;> omega

/-- R130: between two finite words `fl64` gives a finite word between them, and never -0.0. -/
theorem fl64_of_between {a b : Word64} {q qa qb : ℚ} (ha : val a = .num qa) (hb : val b = .num qb)
    (haq : qa ≤ q) (hqb : q ≤ qb) :
    (∃ r, val (fl64 q) = .num r ∧ qa ≤ r ∧ r ≤ qb) ∧ fl64 q ≠ negZero := by
  obtain ⟨-, -, hnearest⟩ := fl64IsNearestEven
  obtain ⟨r, hr, hle, -⟩ := hnearest q a b qa qb ha hb haq hqb
  refine ⟨⟨r, hr, ?_, ?_⟩, ?_⟩
  · have := hle a qa ha
    rw [abs_of_nonneg (sub_nonneg.mpr haq)] at this
    linarith [le_of_abs_le this]
  · have := hle b qb hb
    rw [abs_of_nonpos (sub_nonpos.mpr hqb)] at this
    linarith [neg_le_of_abs_le this]
  · obtain ⟨hafin, rfl⟩ := val_eq_num_iff.mp ha
    obtain ⟨hbfin, rfl⟩ := val_eq_num_iff.mp hb
    exact fl64_ne_negZero (absUnits_le_maxUnits hafin hbfin haq hqb)

theorem fl64_of_val {w : Word64} {q : ℚ} (h : val w = .num q) : fl64 q = if w = negZero then 0 else w := by
  split_ifs with hw
  · obtain rfl : q = 0 := FVal.num.inj (h.symm.trans (hw ▸ val_negZero))
    exact fl64_zero
  · obtain ⟨⟨r, hr, hqr, hrq⟩, hne⟩ := fl64_of_between h h le_rfl le_rfl
    obtain rfl := le_antisymm hqr hrq
    exact eq_of_val_eq hr h hne hw

theorem dmap_zero (p : Profile) {k : Word} (hk : k.toNat = 0) : dmap p k = fl64 p.lo := by
  simp [dmap, hk]

theorem dmap_maxCode {p : Profile} {k : Word} (hM : 0 < p.maxCode) (hk : k.toNat = p.maxCode) :
    dmap p k = fl64 p.hi := by
  have hM' : (p.maxCode : ℚ) ≠ 0 := by exact_mod_cast hM.ne'
  rw [dmap, hk, mul_div_cancel_left₀ _ hM', Profile.period, add_sub_cancel]

/-- Settles O26: the exact value lies between the two bounds, which are finite words. -/
theorem dmapStaysInTheRange : Obligations.DmapStaysInTheRange := by
  intro c p k hinv hk
  have hM := (maxCode_bounds hinv).1
  have hM' : (0 : ℚ) < p.maxCode := by exact_mod_cast hM
  have hP := period_pos hinv.lo_lt_hi
  have hcode : (k.toNat : ℚ) ≤ p.maxCode := by exact_mod_cast hk
  have hlo : p.lo ≤ p.lo + (k.toNat : ℚ) * p.period / p.maxCode :=
    le_add_of_nonneg_right (by positivity)
  have hhi : p.lo + (k.toNat : ℚ) * p.period / p.maxCode ≤ p.hi := by
    rw [← le_sub_iff_add_le', div_le_iff₀ hM', mul_comm]
    exact mul_le_mul_of_nonneg_left hcode hP.le
  obtain ⟨hrange, hne⟩ := fl64_of_between hinv.lo_finite hinv.hi_finite hlo hhi
  refine ⟨hrange, hne, fun hzero => ?_, fun hmax => ?_⟩
  · exact (dmap_zero p hzero).trans (fl64_of_val hinv.lo_finite)
  · exact (dmap_maxCode hM hmax).trans (fl64_of_val hinv.hi_finite)

end Sys2Proof.Proofs.PhaseMap
end

section
/-! PROOFS. QUANTIZE and DEQUANTIZE (41_quantize.md R129, R131, R135) and the element scan they share with PACK: past the
gate and the shape check a command is its scan, the scan of stored words is decided by those words up to the first one
rejected, and its end either writes every result or raises the error of that word. -/

namespace Sys2Proof.Proofs.ElementCommands

open Sys2Proof Sys2Proof.Machine Sys2Proof.Proofs.Steps Sys2Proof.Proofs.MemoryAccess

/-! ### Past the checks before the scan -/

section
variable {s : State} (hvalid : s.profileValid = true) (hshape : s.snap.srcRes = s.act.res)
include hvalid hshape

theorem gate_and_shapeCheck_pass (k : State → State) : profileGate s (fun s => shapeCheck s k) = k s := by
  rw [profileGate, if_pos hvalid, shapeCheck, if_pos hshape]

theorem exec_quantize_of_checks : exec .quantize s = .next (quantizeScan s) :=
  congrArg Host.Outcome.next (gate_and_shapeCheck_pass hvalid hshape _)

theorem exec_dequantize_of_checks : exec .dequantize s = .next (dequantizeScan s) :=
  congrArg Host.Outcome.next (gate_and_shapeCheck_pass hvalid hshape _)

theorem exec_pack_of_checks : exec .pack s = .next (packScan s) :=
  congrArg Host.Outcome.next (gate_and_shapeCheck_pass hvalid hshape _)

end

/-! ### The scan of stored words (R183 step 4, R184) -/

section
variable {α β ε : Type} {rd : Nat → State → α × State} {check : α → Except ε β} {s : State} {f : Nat → α}

/-- A read of a range whose first `n` words are stored begins with those words. -/
theorem readFrom_storedPrefix (n len : Nat) : ∀ i, (∀ j, i ≤ j → j < i + n → rd j s = (f j, s)) →
    (readFrom rd i (n + len) s).1 = (List.range' i n).map f ++ (readFrom rd (i + n) len s).1 := by
  induction n with
  | zero => intro i _; simp
  | succ n ih =>
    intro i h
    have hfirst := h i le_rfl (by omega)
    have hrest := ih (i + 1) fun j hlo hhi => h j (by omega) (by omega)
    rw [Nat.add_right_comm, readFrom, hfirst, hrest, List.range'_succ, List.map_cons, List.cons_append,
      show i + 1 + n = i + (n + 1) by omega]

/-- R184: the scan stops at the lowest rejected word, whatever follows it. -/
theorem checkEach_of_lowestRejected {n len : Nat} {e : ε} (hn : n < len)
    (hread : ∀ j, j ≤ n → rd j s = (f j, s)) (hpass : ∀ j, j < n → ∃ b, check (f j) = .ok b)
    (hreject : check (f n) = .error e) :
    checkEach check 0 (readFrom rd 0 len s).1 = .error (n, e) := by
  obtain ⟨rest, rfl⟩ := Nat.exists_eq_add_of_lt hn
  have hsplit := readFrom_storedPrefix (rd := rd) (f := f) n (rest + 1) 0
    fun j _ hj => hread j (by omega)
  rw [Nat.zero_add, readFrom, hread n le_rfl] at hsplit
  refine checkEach_error.2 ⟨_, _, _, hsplit, fun x hx => ?_, hreject, by simp⟩
  obtain ⟨j, hj, rfl⟩ := List.mem_map.mp hx
  exact hpass j (by simpa using hj)

/-- The scan of stored words that all pass. -/
theorem checkEach_of_allPass {g : Nat → β} {len : Nat} (hread : ∀ j, j < len → rd j s = (f j, s))
    (hpass : ∀ j, j < len → check (f j) = .ok (g j)) :
    checkEach check 0 (readFrom rd 0 len s).1 = .ok ((List.range len).map g) := by
  rw [readFrom_stored f len 0 fun j _ hj => hread j (by omega), ← List.range_eq_range', checkEach_ok,
    List.forall₂_map_left_iff, List.forall₂_map_right_iff, List.forall₂_same]
  exact fun j hj => hpass j (List.mem_range.mp hj)

end

/-! ### The end of the scan (R185, R186) -/

section
variable {α β : Type} {rd : Nat → State → α × State} {check : α → Except (Word64 × Word64) β} {s : State}
  {f : Nat → α} {len : Nat}

theorem finishElements_of_allPass {g : Nat → β} (k : ErrKind) (scramble : State → State)
    (write : List β → State → State) (hread : ∀ j, j < len → rd j s = (f j, s))
    (hpass : ∀ j, j < len → check (f j) = .ok (g j)) :
    finishElements k (checkEach check 0 (readFrom rd 0 len s).1) scramble write (readFrom rd 0 len s).2 =
      completeOk (write ((List.range len).map g) s) := by
  have hstate : (readFrom rd 0 len s).2 = s := by
    rw [readFrom_stored f len 0 fun j _ hj => hread j (by omega)]
  rw [checkEach_of_allPass hread hpass, hstate]
  rfl

theorem finishElements_of_lowestRejected {n : Nat} {e : Word64 × Word64} (k : ErrKind)
    (scramble : State → State) (write : List β → State → State) (hn : n < len)
    (hread : ∀ j, j ≤ n → rd j s = (f j, s)) (hpass : ∀ j, j < n → ∃ b, check (f j) = .ok b)
    (hreject : check (f n) = .error e) :
    finishElements k (checkEach check 0 (readFrom rd 0 len s).1) scramble write (readFrom rd 0 len s).2 =
      raiseError k n e.1 e.2 (scramble (readFrom rd 0 len s).2) := by
  rw [checkEach_of_lowestRejected hn hread hpass hreject]
  rfl

end

theorem completedWith_completeOk (s : State) : CompletedWith (completeOk s) .noError 0 0 0 :=
  ⟨rfl, rfl, rfl, rfl, rfl, rfl⟩

theorem completedWith_raiseError (k : ErrKind) (n : Nat) (expected actual : Word64) (s : State) :
    CompletedWith (raiseError k n expected actual s) k (BitVec.ofNat 32 n) expected actual :=
  ⟨rfl, rfl, rfl, rfl, rfl, rfl⟩

/-! ### One element (R129, R131, R160) -/

theorem quantizeElement_of_code {p : Profile} {w : Word64} {k : Word} (h : qmap p w = .code k) :
    quantizeElement p w = .ok k := by simp [quantizeElement, h]

theorem quantizeElement_of_ood {p : Profile} {w b : Word64} (h : qmap p w = .ood b) :
    quantizeElement p w = .error (b, w) := by simp [quantizeElement, h]

theorem codeElement_of_le {p : Profile} {c : Word} (h : c.toNat ≤ p.maxCode) : codeElement p c = .ok c :=
  if_neg (not_lt.mpr h)

theorem codeElement_of_gt {p : Profile} {c : Word} (h : p.maxCode < c.toNat) :
    codeElement p c = .error (BitVec.ofNat 64 p.maxCode, zext64 c) := if_pos h

/-! ### The words written -/

theorem codeWord?_writeCodes (cs : List Word) (s : State) (i : Nat) :
    codeWord? (writeCodes cs s).mem i = if i < cs.length then some (cs.getD i 0) else codeWord? s.mem i :=
  forRange_get (get := fun t => codeWord? t.mem) (fun i => codeWord?_codeWrite_same i _)
    (fun _ _ t => codeWord?_codeWrite_other _ t) _ s i

theorem phaseWord?_writePhases (ws : List Word64) (s : State) (i : Nat) :
    phaseWord? (writePhases ws s).mem i = if i < ws.length then some (ws.getD i 0) else phaseWord? s.mem i :=
  forRange_get (get := fun t => phaseWord? t.mem) (fun i => phaseWord?_phaseWrite_same i _)
    (fun _ _ t => phaseWord?_phaseWrite_other _ t) _ s i

@[simp] theorem writeCodes_draws (cs : List Word) (s : State) : (writeCodes cs s).draws = s.draws :=
  forRange_field State.draws (fun i => codeWrite_draws i _) _ s

@[simp] theorem writePhases_draws (ws : List Word64) (s : State) : (writePhases ws s).draws = s.draws :=
  forRange_field State.draws (fun i => phaseWrite_draws i _) _ s

/-! ### Results and errors (O27 to O30) -/

/-- Settles O27: the scan of stored samples in their domain gives the list of their codes. -/
theorem quantizeWritesCodes : Obligations.QuantizeWritesCodes := by
  intro s w k hvalid hshape hsamples
  have hexec : exec .quantize s = .next (completeOk (writeCodes ((List.range s.act.pixels).map k) s)) := by
    rw [exec_quantize_of_checks hvalid hshape, quantizeScan, finishElements_of_allPass]
    · exact fun j hj => phaseRead_stored (hsamples j hj).1
    · exact fun j hj => quantizeElement_of_code (hsamples j hj).2
  refine ⟨_, hexec, fun i hi => ?_, completedWith_completeOk _, (commandsLeaveRegisters _ _ _ hexec).1 (by decide),
    writeCodes_draws _ s, exec_sameOutside (b := .code) rfl hexec⟩
  rw [completeOk_mem, codeWord?_writeCodes, if_pos (by simpa using hi)]
  simp [hi]

/-- Settles O28: the scan stops at the first sample out of its domain. -/
theorem quantizeReportsLowestBadSample : Obligations.QuantizeReportsLowestBadSample := by
  intro s w n b hvalid hshape hn hstored hpass hbad
  have hexec := exec_quantize_of_checks hvalid hshape
  rw [quantizeScan, finishElements_of_lowestRejected _ _ _ hn (fun j hj => phaseRead_stored (hstored j hj))
    (fun j hj => (hpass j hj).imp fun _ => quantizeElement_of_code) (quantizeElement_of_ood hbad)] at hexec
  exact ⟨_, hexec, completedWith_raiseError _ _ _ _ _, (commandsLeaveRegisters _ _ _ hexec).1 (by decide),
    exec_sameOutside (b := .code) rfl hexec⟩

/-- Settles O29: the scan of stored codes up to `M` gives the codes, and `dmap` of each is written. -/
theorem dequantizeWritesPhases : Obligations.DequantizeWritesPhases := by
  intro s k hvalid hshape hcodes
  have hexec : exec .dequantize s =
      .next (completeOk (writePhases (((List.range s.act.pixels).map k).map (dmap s.act)) s)) := by
    rw [exec_dequantize_of_checks hvalid hshape, dequantizeScan, finishElements_of_allPass]
    · exact fun j hj => codeRead_stored (hcodes j hj).1
    · exact fun j hj => codeElement_of_le (hcodes j hj).2
  refine ⟨_, hexec, fun i hi => ?_, completedWith_completeOk _, (commandsLeaveRegisters _ _ _ hexec).1 (by decide),
    writePhases_draws _ s, exec_sameOutside (b := .phase) rfl hexec⟩
  rw [completeOk_mem, phaseWord?_writePhases, if_pos (by simpa using hi)]
  simp only [List.map_map, List.getD_eq_getElem?_getD, List.getElem?_map, List.getElem?_range hi]
  rfl

/-- Settles O30: both commands scan CODE_MEM with the same check. -/
theorem lowestCodeAboveMaxReported : Obligations.LowestCodeAboveMaxReported := by
  intro s k n i hi hvalid hshape hn hstored hpass habove
  have hend (scramble : State → State) (write : List Word → State → State) :=
    finishElements_of_lowestRejected (check := codeElement s.act) .codeOutOfRange scramble write hn
      (fun j hj => codeRead_stored (hstored j hj)) (fun j hj => ⟨_, codeElement_of_le (hpass j hj)⟩)
      (codeElement_of_gt habove)
  obtain ⟨t, hexec, hdone⟩ : ∃ t, exec i s = .next t ∧ CompletedWith t .codeOutOfRange (BitVec.ofNat 32 n)
      (BitVec.ofNat 64 (2 ^ s.act.bits - 1)) ((k n).setWidth 64) := by
    rcases hi with rfl | rfl
    · refine ⟨_, exec_dequantize_of_checks hvalid hshape, ?_⟩
      rw [dequantizeScan, hend]
      exact completedWith_raiseError _ _ _ _ _
    · refine ⟨_, exec_pack_of_checks hvalid hshape, ?_⟩
      rw [packScan, hend]
      exact completedWith_raiseError _ _ _ _ _
  refine ⟨t, hexec, hdone, (commandsLeaveRegisters i s t hexec).1 ?_, ?_, ?_⟩
  · rintro rfl
    simp at hi
  · rintro rfl
    exact exec_sameOutside (b := .phase) rfl hexec
  · rintro rfl
    exact exec_sameOutside (b := .pack) rfl hexec

/-! ### Determinism (O31) -/

/-- Two final states report the same error and, on success, hold the same `n` destination words. -/
def SameAnswer {α : Type} (get : Memory → Nat → Option α) (n : Nat) (t t' : State) : Prop :=
  (t'.err = t.err ∧ t'.errIndex = t.errIndex ∧ t'.errExp = t.errExp ∧ t'.errAct = t.errAct) ∧
  (t.err = .noError → ∀ i, i < n → get t'.mem i = get t.mem i)

section
variable {α β : Type} {get : Memory → Nat → Option α} {n : Nat} {s s' : State}

theorem sameAnswer_raiseError {k : ErrKind} (hk : k ≠ .noError) (index : Nat) (expected actual : Word64)
    (s s' : State) :
    SameAnswer get n (raiseError k index expected actual s) (raiseError k index expected actual s') :=
  ⟨⟨rfl, rfl, rfl, rfl⟩, fun h => absurd h hk⟩

theorem sameAnswer_gate_and_shapeCheck {k : State → State} (hvalid : s'.profileValid = s.profileValid)
    (hact : s'.act = s.act) (hres : s'.snap.srcRes = s.snap.srcRes) (h : SameAnswer get n (k s) (k s')) :
    SameAnswer get n (profileGate s fun s => shapeCheck s k) (profileGate s' fun s => shapeCheck s k) := by
  simp only [profileGate, shapeCheck, hvalid, hact, hres]
  split_ifs
  · exact h
  · exact sameAnswer_raiseError (by decide) _ _ _ s s'
  · exact sameAnswer_raiseError (by decide) _ _ _ s s'

theorem sameAnswer_finishElements {k : ErrKind} (hk : k ≠ .noError)
    (r : Except (Nat × (Word64 × Word64)) (List β)) (scramble : State → State)
    {write : List β → State → State}
    (hwrite : ∀ bs, r = .ok bs → ∀ i, i < n → get (write bs s').mem i = get (write bs s).mem i) :
    SameAnswer get n (finishElements k r scramble write s) (finishElements k r scramble write s') := by
  cases r with
  | error e => exact sameAnswer_raiseError hk _ _ _ _ _
  | ok bs => exact ⟨⟨rfl, rfl, rfl, rfl⟩, fun _ => hwrite bs rfl⟩

end

theorem sameAnswer_quantizeScan {s s' : State} {w : Nat → Word64} (hact : s'.act = s.act)
    (hsamples : ∀ i, i < s.act.pixels → phaseWord? s.mem i = some (w i) ∧ phaseWord? s'.mem i = some (w i)) :
    SameAnswer codeWord? s.act.pixels (quantizeScan s) (quantizeScan s') := by
  rw [quantizeScan, quantizeScan, hact,
    readFrom_stored w _ 0 fun j _ hj => phaseRead_stored (hsamples j (by omega)).1,
    readFrom_stored w _ 0 fun j _ hj => phaseRead_stored (hsamples j (by omega)).2]
  refine sameAnswer_finishElements (by decide) _ _ fun cs hcs i hi => ?_
  have hlen : i < cs.length := by simpa [checkEach_length hcs] using hi
  rw [codeWord?_writeCodes, codeWord?_writeCodes, if_pos hlen, if_pos hlen]

theorem sameAnswer_dequantizeScan {s s' : State} {k : Nat → Word} (hact : s'.act = s.act)
    (hcodes : ∀ i, i < s.act.pixels → codeWord? s.mem i = some (k i) ∧ codeWord? s'.mem i = some (k i)) :
    SameAnswer phaseWord? s.act.pixels (dequantizeScan s) (dequantizeScan s') := by
  rw [dequantizeScan, dequantizeScan, hact,
    readFrom_stored k _ 0 fun j _ hj => codeRead_stored (hcodes j (by omega)).1,
    readFrom_stored k _ 0 fun j _ hj => codeRead_stored (hcodes j (by omega)).2]
  refine sameAnswer_finishElements (by decide) _ _ fun cs hcs i hi => ?_
  have hlen : i < (cs.map (dmap s.act)).length := by simpa [checkEach_length hcs] using hi
  rw [phaseWord?_writePhases, phaseWord?_writePhases, if_pos hlen, if_pos hlen]

/-- Settles O31: the checks before the scan, the scan and the results read nothing that may differ. -/
theorem quantizerIsDeterministic : Obligations.QuantizerIsDeterministic := by
  intro s s' t t' hvalid hact hres
  refine ⟨fun w hsamples ht ht' => ?_, fun k hcodes ht ht' => ?_⟩
  · cases ht
    cases ht'
    exact sameAnswer_gate_and_shapeCheck hvalid hact hres (sameAnswer_quantizeScan hact hsamples)
  · cases ht
    cases ht'
    exact sameAnswer_gate_and_shapeCheck hvalid hact hres (sameAnswer_dequantizeScan hact hcodes)

end Sys2Proof.Proofs.ElementCommands
end

section
/-! PROOFS. The packed layout (42_pack.md R150 to R163): `src` on rows and columns, the place of every code bit in the
packed buffer under each layout and bit order, packing and extraction bit by bit, and the buffer read as one number. -/

namespace Sys2Proof.Proofs.PackedLayout

open Sys2Proof Sys2Proof.Machine Sys2Proof.Proofs.Bus Sys2Proof.Proofs.Steps Sys2Proof.Proofs.Registers

/-! ### Positions counted from either end -/

/-- Position `i` of `n`, counted from the other end where `flip` holds. -/
def mirror (flip : Bool) (n i : Nat) : Nat := if flip then n - 1 - i else i

/-- The position of element `j` of group `i`, the groups of `w` elements each, elements counted by `mirror`. -/
def place (flip : Bool) (w i j : Nat) : Nat := w * i + mirror flip w j

section
variable {flip : Bool} {n w i j t : Nat}

@[simp] theorem mirror_false : mirror false n i = i := rfl

@[simp] theorem mirror_true : mirror true n i = n - 1 - i := rfl

theorem mirror_lt (flip : Bool) (h : i < n) : mirror flip n i < n := flip_lt flip h

theorem mirror_mirror (flip : Bool) (h : i < n) : mirror flip n (mirror flip n i) = i := by
  cases flip
  · rfl
  · exact Nat.sub_sub_self (Nat.le_sub_one_of_lt h)

/-- A position counted from the other end lies in the mirrored group, at the mirrored element. -/
theorem mirror_mul_add (flip : Bool) (hi : i < n) (hj : j < w) :
    mirror flip (w * n) (w * i + j) = place flip w (mirror flip n i) j := by
  cases flip
  · rfl
  · obtain ⟨d, rfl⟩ := Nat.exists_eq_add_of_lt hi
    have hgroups : w * (i + d + 1) = w * i + w * d + w := by ring
    simp only [place, mirror_true, show i + d + 1 - 1 - i = d by omega]
    omega

theorem place_lt (flip : Bool) (hi : i < n) (hj : j < w) : place flip w i j < w * n :=
  calc place flip w i j < w * i + w := Nat.add_lt_add_left (mirror_lt flip hj) _
    _ ≤ w * n := Nat.mul_le_mul_left w hi

theorem place_div (flip : Bool) (i : Nat) (hj : j < w) : place flip w i j / w = i := by
  rw [place, Nat.mul_add_div (Nat.zero_lt_of_lt hj), Nat.div_eq_of_lt (mirror_lt flip hj), Nat.add_zero]

theorem place_mod (flip : Bool) (i : Nat) (hj : j < w) : place flip w i j % w = mirror flip w j := by
  rw [place, Nat.mul_add_mod, Nat.mod_eq_of_lt (mirror_lt flip hj)]

theorem mirror_place_mod (flip : Bool) (i : Nat) (hj : j < w) : mirror flip w (place flip w i j % w) = j := by
  rw [place_mod flip i hj, mirror_mirror flip hj]

theorem place_div_mod (flip : Bool) (hw : 0 < w) (t : Nat) : place flip w (t / w) (mirror flip w (t % w)) = t := by
  rw [place, mirror_mirror flip (Nat.mod_lt t hw), Nat.div_add_mod]

/-- A place in groups of groups. -/
theorem place_place (flip : Bool) {v m : Nat} (hj : j < v) (hm : m < w) :
    place flip w (place flip v i j) m = place flip (w * v) i (w * j + m) := by
  rw [place, place, place, mirror_mul_add flip hj hm, place, Nat.mul_add, Nat.mul_assoc, Nat.add_assoc]

end

/-! ### The source index (O32) -/

section
variable {p : Profile} {s : Nat}

theorem pixels_pos_of_lt (h : s < p.pixels) : 0 < p.width := Nat.pos_of_mul_pos_right (Nat.zero_lt_of_lt h)

theorem sourceIndex_eq_place (p : Profile) (s : Nat) : sourceIndex p s =
    place p.colFlip p.width (mirror p.rowFlip p.height (s / p.width)) (s % p.width) := by
  rw [place, Nat.mul_comm]
  rfl

theorem sourceIndex_div (h : s < p.pixels) :
    sourceIndex p s / p.width = mirror p.rowFlip p.height (s / p.width) := by
  rw [sourceIndex_eq_place, place_div _ _ (Nat.mod_lt s (pixels_pos_of_lt h))]

theorem sourceIndex_mod (h : s < p.pixels) :
    sourceIndex p s % p.width = mirror p.colFlip p.width (s % p.width) := by
  rw [sourceIndex_eq_place, place_mod _ _ (Nat.mod_lt s (pixels_pos_of_lt h))]

/-- R152: `src` is its own inverse. -/
theorem sourceIndex_sourceIndex (h : s < p.pixels) : sourceIndex p (sourceIndex p s) = s := by
  rw [sourceIndex_eq_place, sourceIndex_div h, sourceIndex_mod h, mirror_mirror _ (Nat.div_lt_of_lt_mul h),
    place_div_mod _ (pixels_pos_of_lt h)]

/-- On one frame, `src` of `r` after `src` of `c` is `src` of `p` where the flips of `c` and `r` compose to those of `p`. -/
theorem sourceIndex_comp {r c : Profile} (hr : r.res = p.res) (hc : c.res = p.res) (h : s < p.pixels)
    (hrow : ∀ n i, mirror r.rowFlip n (mirror c.rowFlip n i) = mirror p.rowFlip n i)
    (hcol : ∀ n i, mirror r.colFlip n (mirror c.colFlip n i) = mirror p.colFlip n i) :
    sourceIndex r (sourceIndex c s) = sourceIndex p s := by
  have hwidth : r.width = p.width ∧ c.width = p.width := by simp [Profile.width, hr, hc]
  have hheight : r.height = p.height ∧ c.height = p.height := by simp [Profile.height, hr, hc]
  have hframe : s < c.pixels := by rwa [Profile.pixels, hwidth.2, hheight.2]
  have hdiv := sourceIndex_div hframe
  have hmod := sourceIndex_mod hframe
  rw [hwidth.2, hheight.2] at hdiv
  rw [hwidth.2] at hmod
  rw [sourceIndex_eq_place r, sourceIndex_eq_place p, hwidth.1, hheight.1, hdiv, hmod, hrow, place, hcol, place]

end

/-- Settles O32: `src` mirrors the row and the column of a position, each by itself. -/
theorem sourceIndexIsInvolution : Obligations.SourceIndexIsInvolution := by
  intro p s h
  refine ⟨?_, sourceIndex_lt p h, sourceIndex_sourceIndex h, fun hrow hcol => ?_,
    fun r c hr hc hrr hrc hcr hcc => ⟨?_, ?_⟩⟩
  · simp only [← width_eq, ← height_eq]
    exact ⟨rfl, rfl⟩
  · have hmirror := mirror_mul_add true (Nat.div_lt_of_lt_mul h) (Nat.mod_lt s (pixels_pos_of_lt h))
    rw [Nat.div_add_mod, mirror_true] at hmirror
    rw [sourceIndex_eq_place, hrow, hcol]
    exact hmirror.symm
  · exact sourceIndex_comp hr hc h (by simp [hrr, hcr]) (by simp [hrc, hcc])
  · exact sourceIndex_comp hc hr h (by simp [hrr, hcr]) (by simp [hrc, hcc])

/-! ### Numbers in groups of bits -/

section
variable {w n : Nat} {d : Nat → Nat}

theorem sum_groups_lt (h : ∀ i, i < n → d i < 2 ^ w) : ∑ i ∈ Finset.range n, d i * 2 ^ (w * i) < 2 ^ (w * n) := by
  induction n with
  | zero => simp
  | succ n ih =>
    have hrest := ih fun i hi => h i (by omega)
    rw [Finset.sum_range_succ]
    calc _ < 2 ^ (w * n) + d n * 2 ^ (w * n) := Nat.add_lt_add_right hrest _
      _ = (d n + 1) * 2 ^ (w * n) := by ring
      _ ≤ 2 ^ w * 2 ^ (w * n) := Nat.mul_le_mul_right _ (h n n.lt_succ_self)
      _ = 2 ^ (w * (n + 1)) := by ring

/-- A sum of groups of `w` bits has the bits of each group at the group's place. -/
theorem testBit_sum_groups (h : ∀ i, i < n → d i < 2 ^ w) (t : Nat) :
    (∑ i ∈ Finset.range n, d i * 2 ^ (w * i)).testBit t = (decide (t < w * n) && (d (t / w)).testBit (t % w)) := by
  induction n with
  | zero => simp
  | succ n ih =>
    have hlow : ∀ i, i < n → d i < 2 ^ w := fun i hi => h i (by omega)
    rw [Finset.sum_range_succ, Nat.add_comm, Nat.mul_comm, Nat.testBit_two_pow_mul_add _ (sum_groups_lt hlow),
      ih hlow, Nat.mul_succ]
    by_cases hbelow : t < w * n
    · simp [hbelow, Nat.lt_add_right w hbelow]
    · rw [if_neg hbelow]
      by_cases hgroup : t < w * n + w
      · obtain ⟨j, rfl⟩ := Nat.exists_eq_add_of_le (not_lt.mp hbelow)
        have hj : j < w := by omega
        simp [hj, Nat.mul_add_div (Nat.zero_lt_of_lt hj), Nat.div_eq_of_lt hj, Nat.mod_eq_of_lt hj]
      · have habove : d n < 2 ^ (t - w * n) :=
          (h n n.lt_succ_self).trans_le (Nat.pow_le_pow_right two_pos (by omega))
        simp [hgroup, Nat.testBit_lt_two_pow habove]

/-- The same with the groups counted by `mirror`: from the most significant one down where `flip` holds. -/
theorem testBit_sum_mirror (flip : Bool) (h : ∀ i, i < n → d i < 2 ^ w) (t : Nat) :
    (∑ i ∈ Finset.range n, d i * 2 ^ (w * mirror flip n i)).testBit t =
      (decide (t < w * n) && (d (mirror flip n (t / w))).testBit (t % w)) := by
  have hsum : ∑ i ∈ Finset.range n, d i * 2 ^ (w * mirror flip n i) =
      ∑ i ∈ Finset.range n, d (mirror flip n i) * 2 ^ (w * i) := by
    cases flip
    · rfl
    · rw [← Finset.sum_range_reflect]
      refine Finset.sum_congr rfl fun i hi => ?_
      rw [mirror_true, mirror_true, Nat.sub_sub_self (Nat.le_sub_one_of_lt (Finset.mem_range.mp hi))]
  rw [hsum, testBit_sum_groups fun i hi => h _ (mirror_lt flip hi)]

end

theorem natOfBits_eq_sum (n : Nat) (b : Nat → Bool) :
    natOfBits n b = ∑ i ∈ Finset.range n, (b i).toNat * 2 ^ (1 * i) := by
  induction n with
  | zero => rfl
  | succ n ih => rw [natOfBits, ih, Finset.sum_range_succ, Nat.one_mul]

theorem natOfBytes_eq_sum (n : Nat) (b : Nat → Byte) :
    natOfBytes n b = ∑ i ∈ Finset.range n, (b i).toNat * 2 ^ (8 * i) := by
  induction n with
  | zero => rfl
  | succ n ih => rw [natOfBytes, ih, Finset.sum_range_succ]

theorem testBit_natOfBits (n : Nat) (b : Nat → Bool) (m : Nat) :
    (natOfBits n b).testBit m = (decide (m < n) && b m) := by
  rw [natOfBits_eq_sum, testBit_sum_groups fun i _ => (b i).toNat_lt, Nat.one_mul, Nat.div_one, Nat.mod_one]
  cases b m <;> rfl

theorem testBit_natOfBytes (n : Nat) (b : Nat → Byte) (m : Nat) :
    (natOfBytes n b).testBit m = (decide (m < 8 * n) && (b (m / 8)).getLsbD (m % 8)) := by
  rw [natOfBytes_eq_sum, testBit_sum_groups fun i _ => (b i).isLt, BitVec.testBit_toNat]

theorem getLsbD_of_toNat_lt {w n i : Nat} {x : BitVec w} (h : x.toNat < 2 ^ n) (hi : n ≤ i) :
    x.getLsbD i = false :=
  BitVec.testBit_toNat x ▸ Nat.testBit_lt_two_pow (h.trans_le (Nat.pow_le_pow_right two_pos hi))

/-! ### The place of a code bit (R153 to R157)

A layout cuts the buffer into units of `unitBits` bits, one per code. Under MSB_FIRST and BE_MULTIBYTE a position in the
buffer counts the bits of a byte, and of a unit, from the most significant one; otherwise from the least. -/

/-- The number of buffer bits a code takes: `N`, or the `8B` bits of its unit. -/
def unitBits (p : Profile) : Nat :=
  match p.layout with
  | .packedSubbyte => p.bits
  | .leMultibyte | .beMultibyte => 8 * p.unitBytes
  | .reserved => 0

/-- The most significant bit comes first. -/
def highFirst (p : Profile) : Bool :=
  match p.layout with
  | .packedSubbyte => p.order = .msbFirst
  | .leMultibyte | .reserved => false
  | .beMultibyte => true

section
variable {p : Profile} {q : Nat → Word} {b : Nat → Byte} {k m t s j : Nat}

theorem bits_le_unitBytes (p : Profile) : p.bits ≤ 8 * p.unitBytes := by
  rw [Profile.unitBytes]
  omega

theorem bits_le_unitBits (hlegal : p.layout ≠ .reserved) : p.bits ≤ unitBits p := by
  unfold unitBits
  cases hl : p.layout with
  | packedSubbyte => exact le_rfl
  | leMultibyte | beMultibyte => exact bits_le_unitBytes p
  | reserved => exact absurd hl hlegal

/-- R104: the buffer is the units of all codes, and less than a byte of padding. -/
theorem unitBits_mul_pixels (p : Profile) :
    unitBits p * p.pixels ≤ 8 * p.packedBytes ∧ 8 * p.packedBytes < unitBits p * p.pixels + 8 := by
  have hunits : 8 * (p.pixels * p.unitBytes) = 8 * p.unitBytes * p.pixels := by ring
  unfold unitBits Profile.packedBytes packedLength
  cases p.layout with
  | packedSubbyte => dsimp only; omega
  | leMultibyte | beMultibyte => dsimp only; rw [← Profile.unitBytes]; omega
  | reserved => simp

theorem packedByte_subbyte (h : p.layout = .packedSubbyte) (q : Nat → Word) (k : Nat) :
    packedByte p q k = BitVec.ofNat 8 (natOfBits 8 fun m =>
      decide (place (highFirst p) 8 k m < p.bits * p.pixels) &&
        (q (place (highFirst p) 8 k m / p.bits)).getLsbD
          (mirror (highFirst p) p.bits (place (highFirst p) 8 k m % p.bits))) := by
  cases ho : p.order <;> simp [packedByte, highFirst, h, ho] <;> rfl

theorem packedByte_multibyte (h : p.layout = .leMultibyte ∨ p.layout = .beMultibyte) (q : Nat → Word) (k : Nat) :
    packedByte p q k = (q (k / p.unitBytes)).extractLsb'
      (8 * mirror (highFirst p) p.unitBytes (k % p.unitBytes)) 8 := by
  rcases h with h | h <;> simp [packedByte, highFirst, h]

theorem extractCode_subbyte (h : p.layout = .packedSubbyte) (b : Nat → Byte) (s : Nat) :
    extractCode p b s = BitVec.ofNat 32 (natOfBits p.bits fun j =>
      (b (place (highFirst p) p.bits s j / 8)).getLsbD
        (mirror (highFirst p) 8 (place (highFirst p) p.bits s j % 8))) := by
  cases ho : p.order <;> simp [extractCode, highFirst, h, ho, place, Nat.mul_comm p.bits]

theorem extractCode_multibyte (h : p.layout = .leMultibyte ∨ p.layout = .beMultibyte) (b : Nat → Byte) (s : Nat) :
    extractCode p b s = BitVec.ofNat 32
      (natOfBytes p.unitBytes (fun j => b (place (highFirst p) p.unitBytes s j)) % 2 ^ p.bits) := by
  rcases h with h | h <;> simp [extractCode, highFirst, h, place, Nat.mul_comm p.unitBytes]

theorem unitBits_subbyte (h : p.layout = .packedSubbyte) : unitBits p = p.bits := by simp [unitBits, h]

theorem unitBits_multibyte (h : p.layout = .leMultibyte ∨ p.layout = .beMultibyte) :
    unitBits p = 8 * p.unitBytes := by
  rcases h with h | h <;> simp [unitBits, h]

/-- Every bit of a multibyte buffer is in the unit of a code. -/
theorem place_of_multibyte (h : p.layout = .leMultibyte ∨ p.layout = .beMultibyte) (hk : k < p.packedBytes)
    (hm : m < 8) (ht : t = place (highFirst p) 8 k m) :
    t < unitBits p * p.pixels ∧ t / unitBits p = k / p.unitBytes ∧
    mirror (highFirst p) (unitBits p) (t % unitBits p) =
      8 * mirror (highFirst p) p.unitBytes (k % p.unitBytes) + m := by
  have hlen : p.packedBytes = p.unitBytes * p.pixels := by
    rcases h with h | h <;> rw [Profile.packedBytes, h, packedLength, ← Profile.unitBytes, Nat.mul_comm]
  rw [hlen] at hk
  have hunit : 0 < p.unitBytes := Nat.pos_of_mul_pos_right (Nat.zero_lt_of_lt hk)
  have hbyte := mirror_lt (highFirst p) (Nat.mod_lt k hunit)
  have hbit : 8 * mirror (highFirst p) p.unitBytes (k % p.unitBytes) + m < 8 * p.unitBytes := by omega
  rw [unitBits_multibyte h, ht, ← place_div_mod (highFirst p) hunit k, place_place _ hbyte hm, place_div_mod _ hunit]
  exact ⟨place_lt _ (Nat.div_lt_of_lt_mul hk) hbit, place_div _ _ hbit, mirror_place_mod _ _ hbit⟩

/-- R153 to R157: bit `m` of byte `k` is the bit of the code whose unit holds it, and 0 past the last unit. -/
theorem getLsbD_packedByte (q : Nat → Word) (hk : k < p.packedBytes) (hm : m < 8)
    (ht : t = place (highFirst p) 8 k m) :
    (packedByte p q k).getLsbD m = (decide (t < unitBits p * p.pixels) &&
      (q (t / unitBits p)).getLsbD (mirror (highFirst p) (unitBits p) (t % unitBits p))) := by
  cases hl : p.layout with
  | packedSubbyte =>
    rw [packedByte_subbyte hl, BitVec.getLsbD_ofNat, testBit_natOfBits, ht]
    simp [hm, unitBits, hl]
  | leMultibyte | beMultibyte =>
    have hmulti : p.layout = .leMultibyte ∨ p.layout = .beMultibyte := by simp [hl]
    obtain ⟨hlt, hdiv, hmod⟩ := place_of_multibyte hmulti hk hm ht
    rw [packedByte_multibyte hmulti, BitVec.getLsbD_extractLsb', hdiv, hmod]
    simp [hm, hlt]
  | reserved => simp [Profile.packedBytes, packedLength, hl] at hk

/-- The buffer depends only on the codes at the stream positions of the frame. -/
theorem packedByte_congr {q' : Nat → Word} (h : ∀ i, i < p.pixels → q i = q' i) (hk : k < p.packedBytes) :
    packedByte p q k = packedByte p q' k := by
  refine BitVec.eq_of_getLsbD_eq fun m hm => ?_
  rw [getLsbD_packedByte q hk hm rfl, getLsbD_packedByte q' hk hm rfl]
  by_cases hlt : place (highFirst p) 8 k m < unitBits p * p.pixels
  · rw [h _ (Nat.div_lt_of_lt_mul hlt)]
  · simp [hlt]

/-- R155, R158: a buffer bit carries a code bit where it is one of the first `N` bits of a code's unit. -/
theorem usedBit_eq (hk : k < p.packedBytes) (hm : m < 8) (ht : t = place (highFirst p) 8 k m) :
    usedBit p k m = (decide (t < unitBits p * p.pixels) &&
      decide (mirror (highFirst p) (unitBits p) (t % unitBits p) < p.bits)) := by
  cases hl : p.layout with
  | packedSubbyte =>
    have hused : usedBit p k m = decide (t < p.bits * p.pixels) := by
      cases ho : p.order <;> simp [usedBit, highFirst, hl, ho, ht, place]
    rw [hused, unitBits_subbyte hl, Bool.eq_self_and, decide_eq_true_iff, decide_eq_true_iff]
    exact fun hlt => mirror_lt _ (Nat.mod_lt t (Nat.pos_of_mul_pos_right (Nat.zero_lt_of_lt hlt)))
  | leMultibyte | beMultibyte =>
    have hmulti : p.layout = .leMultibyte ∨ p.layout = .beMultibyte := by simp [hl]
    obtain ⟨hlt, -, hmod⟩ := place_of_multibyte hmulti hk hm ht
    rw [hmod]
    simp [usedBit, highFirst, hl, hlt]
  | reserved => simp [Profile.packedBytes, packedLength, hl] at hk

/-- R161: an extracted code is at most `M`. -/
theorem extractCode_lt (p : Profile) (b : Nat → Byte) (s : Nat) : (extractCode p b s).toNat < 2 ^ p.bits := by
  have hbits (c : Nat → Bool) : natOfBits p.bits c < 2 ^ p.bits :=
    Nat.lt_pow_two_of_testBit _ fun i hi => by simp [testBit_natOfBits, hi.not_gt]
  have hword {n : Nat} (h : n < 2 ^ p.bits) : (BitVec.ofNat 32 n).toNat < 2 ^ p.bits :=
    (Nat.mod_le _ _).trans_lt h
  cases hl : p.layout with
  | packedSubbyte => exact extractCode_subbyte hl b s ▸ hword (hbits _)
  | leMultibyte | beMultibyte =>
    have hmulti : p.layout = .leMultibyte ∨ p.layout = .beMultibyte := by simp [hl]
    exact extractCode_multibyte hmulti b s ▸ hword (Nat.mod_lt _ (Nat.two_pow_pos _))
  | reserved => simp [extractCode, hl]

/-- R161: bit `j` of the code extracted at position `s` is the buffer bit at its place. -/
theorem getLsbD_extractCode (hlegal : p.layout ≠ .reserved) (hbits : p.bits ≤ 32) (b : Nat → Byte)
    (hj : j < p.bits) (ht : t = place (highFirst p) (unitBits p) s j) :
    (extractCode p b s).getLsbD j = (b (t / 8)).getLsbD (mirror (highFirst p) 8 (t % 8)) := by
  have hword : j < 32 := hj.trans_le hbits
  cases hl : p.layout with
  | packedSubbyte =>
    rw [extractCode_subbyte hl, BitVec.getLsbD_ofNat, testBit_natOfBits, ht]
    simp [hword, hj, unitBits, hl]
  | leMultibyte | beMultibyte =>
    have hmulti : p.layout = .leMultibyte ∨ p.layout = .beMultibyte := by simp [hl]
    have hunit : j < 8 * p.unitBytes := hj.trans_le (bits_le_unitBytes p)
    have hbit : j % 8 < 8 := Nat.mod_lt j (by decide)
    have hplace : t = place (highFirst p) 8 (place (highFirst p) p.unitBytes s (j / 8)) (j % 8) := by
      rw [place_place _ (Nat.div_lt_of_lt_mul hunit) hbit, Nat.div_add_mod, ht, unitBits_multibyte hmulti]
    rw [extractCode_multibyte hmulti, BitVec.getLsbD_ofNat, Nat.testBit_mod_two_pow, testBit_natOfBytes, hplace,
      place_div _ _ hbit, mirror_place_mod _ _ hbit]
    simp [hword, hj, hunit]
  | reserved => exact absurd hl hlegal

/-- The place of a code bit is in the buffer, and is that of a used bit. -/
theorem place_used (hlegal : p.layout ≠ .reserved) (hs : s < p.pixels) (hj : j < p.bits)
    (ht : t = place (highFirst p) (unitBits p) s j) :
    t / 8 < p.packedBytes ∧ place (highFirst p) 8 (t / 8) (mirror (highFirst p) 8 (t % 8)) = t ∧
    t < unitBits p * p.pixels ∧ t / unitBits p = s ∧
    mirror (highFirst p) (unitBits p) (t % unitBits p) = j := by
  have hunit := hj.trans_le (bits_le_unitBits hlegal)
  have hlt : t < unitBits p * p.pixels := ht ▸ place_lt _ hs hunit
  have hlen := (unitBits_mul_pixels p).1
  refine ⟨by omega, place_div_mod _ (by decide) t, hlt, ?_, ?_⟩
  · rw [ht, place_div _ _ hunit]
  · rw [ht, mirror_place_mod _ _ hunit]

/-- R161: an extracted code depends only on the used bits. -/
theorem extractCode_congr {b' : Nat → Byte} (hlegal : p.layout ≠ .reserved) (hbits : p.bits ≤ 32)
    (hs : s < p.pixels) (h : ∀ k m, k < p.packedBytes → m < 8 → usedBit p k m = true →
      (b k).getLsbD m = (b' k).getLsbD m) : extractCode p b s = extractCode p b' s := by
  refine BitVec.eq_of_getLsbD_eq fun j _ => ?_
  by_cases hj : j < p.bits
  · obtain ⟨hbyte, hplace, hlt, -, hmod⟩ := place_used hlegal hs hj rfl
    have hbit := mirror_lt (highFirst p) (Nat.mod_lt (place (highFirst p) (unitBits p) s j) (show 8 > 0 by decide))
    rw [getLsbD_extractCode hlegal hbits b hj rfl, getLsbD_extractCode hlegal hbits b' hj rfl]
    refine h _ _ hbyte hbit ?_
    rw [usedBit_eq hbyte hbit hplace.symm, hmod]
    simp [hlt, hj]
  · rw [getLsbD_of_toNat_lt (extractCode_lt p b s) (not_lt.mp hj),
      getLsbD_of_toNat_lt (extractCode_lt p b' s) (not_lt.mp hj)]

/-- R163: the codes packed are the codes extracted. -/
theorem extractCode_packedByte (hlegal : p.layout ≠ .reserved) (hbits : p.bits ≤ 32)
    (hs : s < p.pixels) (hq : (q s).toNat < 2 ^ p.bits) : extractCode p (packedByte p q) s = q s := by
  refine BitVec.eq_of_getLsbD_eq fun j _ => ?_
  by_cases hj : j < p.bits
  · obtain ⟨hbyte, hplace, hlt, hdiv, hmod⟩ := place_used hlegal hs hj rfl
    rw [getLsbD_extractCode hlegal hbits _ hj rfl,
      getLsbD_packedByte q hbyte (mirror_lt _ (Nat.mod_lt _ (by decide))) hplace.symm, hdiv, hmod]
    simp [hlt]
  · rw [getLsbD_of_toNat_lt (extractCode_lt p _ s) (not_lt.mp hj), getLsbD_of_toNat_lt hq (not_lt.mp hj)]

end

theorem le_two_pow_sub_one_iff {n x : Nat} : x ≤ 2 ^ n - 1 ↔ x < 2 ^ n := Nat.le_sub_one_iff_lt (Nat.two_pow_pos n)

/-! ### The buffer bit by bit (O33, O34, O36) -/

/-- Settles O33: the place of stream bit `t` is `t`, and the unit of a code is its `N` bits. -/
theorem packedStreamBits : Obligations.PackedStreamBits := by
  intro p q t hl ht
  have hlen := unitBits_mul_pixels p
  have hbit := getLsbD_packedByte (m := mirror (highFirst p) 8 (t % 8)) q (Nat.div_lt_of_lt_mul ht)
    (mirror_lt _ (Nat.mod_lt t (by decide))) (place_div_mod _ (by decide) t).symm
  rw [unitBits_subbyte hl] at hlen hbit
  refine ⟨fun ho => ?_, fun ho => ?_, hlen⟩
  · have hfirst : highFirst p = true := by simp [highFirst, hl, ho]
    rw [hfirst] at hbit
    simpa using hbit
  · have hfirst : highFirst p = false := by simp [highFirst, hl, ho]
    rw [hfirst] at hbit
    simpa using hbit

/-- A code's byte in its unit, by the place of the byte (R156 to R158). -/
theorem packedByte_unit {p : Profile} {q : Nat → Word} {s j : Nat}
    (h : p.layout = .leMultibyte ∨ p.layout = .beMultibyte) (hq : (q s).toNat < 2 ^ p.bits)
    (hj : j < p.unitBytes) :
    (packedByte p q (s * p.unitBytes + j)).toNat =
      (q s).toNat / 2 ^ (8 * mirror (highFirst p) p.unitBytes j) % 256 ∧
    ∀ m, m < 8 → p.bits ≤ 8 * mirror (highFirst p) p.unitBytes j + m →
      (packedByte p q (s * p.unitBytes + j)).getLsbD m = false := by
  have hbyte : packedByte p q (s * p.unitBytes + j) =
      (q s).extractLsb' (8 * mirror (highFirst p) p.unitBytes j) 8 := by
    have hdiv : (s * p.unitBytes + j) / p.unitBytes = s := Nat.mul_comm s _ ▸ place_div false s hj
    have hmod : (s * p.unitBytes + j) % p.unitBytes = j := Nat.mul_comm s _ ▸ place_mod false s hj
    rw [packedByte_multibyte h, hdiv, hmod]
  rw [hbyte]
  refine ⟨by rw [extractLsb'_byte, Nat.pow_mul], fun m hm hhigh => ?_⟩
  rw [BitVec.getLsbD_extractLsb', getLsbD_of_toNat_lt hq hhigh, Bool.and_false]

/-- Settles O34: each byte of a unit is a byte of the code, and BIT_ORDER stands in neither direction. -/
theorem packedUnitBytes : Obligations.PackedUnitBytes := by
  intro p p' q s j hq hj hdepth hres hlayout
  have hcode := le_two_pow_sub_one_iff.mp hq
  refine ⟨fun hl => ?_, fun hl => ?_, fun hl => ?_⟩
  · simpa [highFirst, hl] using packedByte_unit (.inl hl) hcode hj
  · simpa [highFirst, hl] using packedByte_unit (.inr hl) hcode hj
  · have hbits : p'.bits = p.bits := congrArg BitVec.toNat hdepth
    have hunit : p'.unitBytes = p.unitBytes := by rw [Profile.unitBytes, hbits, Profile.unitBytes]
    have hfirst : highFirst p' = highFirst p := by rcases hl with hl | hl <;> simp [highFirst, hlayout, hl]
    have hl' : p'.layout = .leMultibyte ∨ p'.layout = .beMultibyte := hlayout ▸ hl
    refine ⟨?_, fun b => ?_⟩
    · rw [packedByte_multibyte hl', packedByte_multibyte hl, hunit, hfirst]
    · rw [extractCode_multibyte hl', extractCode_multibyte hl, hunit, hfirst, hbits]

/-- Settles O36: a used bit is packed from the code it is extracted to, and only used bits are extracted. -/
theorem packOfExtractedClearsPadding : Obligations.PackOfExtractedClearsPadding := by
  intro c p b b' hinv
  refine ⟨fun k m hk hm => ?_,
    fun hagree s hs => extractCode_congr hinv.layout_legal hinv.bits_le hs hagree⟩
  rw [getLsbD_packedByte _ hk hm rfl, usedBit_eq hk hm rfl]
  by_cases hlt : place (highFirst p) 8 k m < unitBits p * p.pixels
  · have hunit : 0 < unitBits p := Nat.pos_of_mul_pos_right (Nat.zero_lt_of_lt hlt)
    by_cases hj : mirror (highFirst p) (unitBits p) (place (highFirst p) 8 k m % unitBits p) < p.bits
    · rw [getLsbD_extractCode hinv.layout_legal hinv.bits_le b hj (place_div_mod _ hunit _).symm, place_div _ _ hm,
        mirror_place_mod _ _ hm]
      simp [hj]
    · simp [getLsbD_of_toNat_lt (extractCode_lt p b _) (not_lt.mp hj), hj]
  · simp [hlt]

/-! ### The buffer as one number (O35) -/

/-- Positions in a frame of `n` at the start of one of `n'`, both counted by `mirror`. -/
theorem mirror_prefix (flip : Bool) {n n' t e : Nat} (hn : n ≤ n') (he : e = if flip then n' - n else 0)
    (ht : t < n') : (mirror flip n' t < n ↔ e ≤ t ∧ t - e < n) ∧
      (mirror flip n' t < n → mirror flip n' t = mirror flip n (t - e)) := by
  cases flip
  · obtain rfl : e = 0 := he
    simp
  · obtain rfl : e = n' - n := he
    simp only [mirror_true]
    omega

/-- R159: the buffer as a number, the codes in their order, above the padding where the first bit is the highest. -/
theorem packedNumber {p : Profile} {q : Nat → Word} (hl : p.layout = .packedSubbyte)
    (hq : ∀ s, s < p.pixels → (q s).toNat < 2 ^ p.bits) :
    ∑ k ∈ Finset.range p.packedBytes, (packedByte p q k).toNat * 2 ^ (8 * mirror (highFirst p) p.packedBytes k) =
      (∑ s ∈ Finset.range p.pixels, (q s).toNat * 2 ^ (p.bits * mirror (highFirst p) p.pixels s)) *
        2 ^ (if highFirst p then 8 * p.packedBytes - p.bits * p.pixels else 0) := by
  have hlen := unitBits_mul_pixels p
  rw [unitBits_subbyte hl] at hlen
  generalize he : (if highFirst p then 8 * p.packedBytes - p.bits * p.pixels else 0) = e
  refine Nat.eq_of_testBit_eq fun t => ?_
  rw [testBit_sum_mirror _ fun k _ => (packedByte p q k).isLt, Nat.testBit_mul_two_pow, testBit_sum_mirror _ hq,
    BitVec.testBit_toNat, BitVec.testBit_toNat]
  by_cases ht : t < 8 * p.packedBytes
  · obtain ⟨hin, hpos⟩ := mirror_prefix (highFirst p) hlen.1 he.symm ht
    have hbyte := Nat.div_lt_of_lt_mul ht
    have hbit := Nat.mod_lt t (show 8 > 0 by decide)
    have hplace := mirror_mul_add (highFirst p) hbyte hbit
    rw [Nat.div_add_mod] at hplace
    rw [getLsbD_packedByte q (mirror_lt _ hbyte) hbit hplace, unitBits_subbyte hl]
    by_cases hcode : mirror (highFirst p) (8 * p.packedBytes) t < p.bits * p.pixels
    · obtain ⟨hpad, hlt⟩ := hin.mp hcode
      have hgroup := Nat.mod_lt (t - e) (Nat.pos_of_mul_pos_right (Nat.zero_lt_of_lt hlt))
      have hunits := mirror_mul_add (highFirst p) (Nat.div_lt_of_lt_mul hlt) hgroup
      rw [Nat.div_add_mod, ← hpos hcode] at hunits
      simp only [ht, hcode, hpad, hlt, decide_true, Bool.true_and]
      rw [hunits, place_div _ _ hgroup, mirror_place_mod _ _ hgroup]
    · have hout : e ≤ t → ¬ t - e < p.bits * p.pixels := fun hpad hlt => hcode (hin.mpr ⟨hpad, hlt⟩)
      by_cases hpad : e ≤ t <;> simp [hcode, hpad, hout]
  · have hout : ¬ t - e < p.bits * p.pixels := by split_ifs at he <;> omega
    simp [ht, hout]

/-- Settles O35: both readings of the buffer count bytes and codes by `mirror`. -/
theorem packedBufferAsOneNumber : Obligations.PackedBufferAsOneNumber := by
  intro p q hl _ _ hq
  have hnumber := packedNumber hl fun s hs => le_two_pow_sub_one_iff.mp (hq s hs)
  have hbytes (k : Nat) : 256 ^ k = 2 ^ (8 * k) := Nat.pow_mul 2 8 k ▸ rfl
  refine ⟨fun ho => ?_, fun ho => ?_⟩
  · have hfirst : highFirst p = true := by simp [highFirst, hl, ho]
    simpa [hfirst, hbytes] using hnumber
  · have hfirst : highFirst p = false := by simp [highFirst, hl, ho]
    simpa [hfirst, hbytes] using hnumber

end Sys2Proof.Proofs.PackedLayout
end

section
/-! PROOFS. PACK and UNPACK (42_pack.md R160, R162, R163): past their checks each reads its whole source range and writes
the layout's bytes or codes, and UNPACK stores back what PACK read. -/

namespace Sys2Proof.Proofs.PackCommands

open Sys2Proof Sys2Proof.Machine Sys2Proof.Proofs.Steps Sys2Proof.Proofs.MemoryAccess
  Sys2Proof.Proofs.ElementCommands Sys2Proof.Proofs.PackedLayout

/-! ### PACK (O37) -/

theorem packByte?_writePacked (p : Profile) (cs : List Word) (s : State) (n : Nat) :
    packByte? (writePacked p cs s).mem n = if n < p.packedBytes then
      some (packedByte p (fun i => cs.getD (sourceIndex p i) 0) n) else packByte? s.mem n :=
  forRange_get (get := fun t => packByte? t.mem) (fun k => packByte?_packWrite_same k _)
    (fun _ _ t => packByte?_packWrite_other _ t) _ s n

@[simp] theorem writePacked_draws (p : Profile) (cs : List Word) (s : State) :
    (writePacked p cs s).draws = s.draws :=
  forRange_field State.draws (fun k => packWrite_draws k _) _ s

/-- Settles O37: the scan of stored codes up to `M` gives the codes, and each byte of their layout is written. -/
theorem packWritesBytes : Obligations.PackWritesBytes := by
  intro s k hvalid hshape hcodes
  have hexec : exec .pack s = .next (completeOk (writePacked s.act ((List.range s.act.pixels).map k) s)) := by
    rw [exec_pack_of_checks hvalid hshape, packScan, finishElements_of_allPass]
    · exact fun j hj => codeRead_stored (hcodes j hj).1
    · exact fun j hj => codeElement_of_le (hcodes j hj).2
  refine ⟨_, hexec, fun q hq n hn => ?_, completedWith_completeOk _,
    (commandsLeaveRegisters _ _ _ hexec).1 (by decide), writePacked_draws _ _ s,
    exec_sameOutside (b := .pack) rfl hexec⟩
  rw [completeOk_mem, packByte?_writePacked, if_pos hn]
  refine congrArg some (packedByte_congr (fun i hi => ?_) hn)
  simp [sourceIndex_lt s.act hi, hq i hi]

/-! ### UNPACK (O38) -/

/-- A loop whose passes write different words leaves in each what its own pass wrote. -/
theorem forRange_get_of_injOn {α : Type} {get : State → Nat → Option α} {f : Nat → State → State} {v : Nat → α}
    {target : Nat → Nat} (hs : ∀ i t, get (f i t) (target i) = some (v i))
    (ho : ∀ i t x, x ≠ target i → get (f i t) x = get t x) {n : Nat} (hinj : Set.InjOn target {i | i < n})
    (s : State) {j : Nat} (hj : j < n) : get (forRange n f s) (target j) = some (v j) := by
  induction n with
  | zero => cases hj
  | succ n ih =>
    rw [forRange]
    by_cases hlast : j = n
    · rw [hlast, hs]
    · rw [ho _ _ _ fun heq => hlast (hinj hj n.lt_succ_self heq)]
      exact ih (hinj.mono fun i hi => Nat.lt_succ_of_lt hi) (by omega)

theorem sourceIndex_injOn (p : Profile) : Set.InjOn (sourceIndex p) {i | i < p.pixels} := fun i hi j hj h => by
  rw [← sourceIndex_sourceIndex hi, h, sourceIndex_sourceIndex hj]

theorem codeWord?_writeExtracted (p : Profile) (bs : List Byte) (s : State) {i : Nat} (hi : i < p.pixels) :
    codeWord? (writeExtracted p bs s).mem (sourceIndex p i) = some (extractCode p (fun k => bs.getD k 0) i) :=
  forRange_get_of_injOn (get := fun t => codeWord? t.mem) (fun _ => codeWord?_codeWrite_same _ _)
    (fun _ t _ => codeWord?_codeWrite_other _ t) (sourceIndex_injOn p) s hi

@[simp] theorem writeExtracted_draws (p : Profile) (bs : List Byte) (s : State) :
    (writeExtracted p bs s).draws = s.draws :=
  forRange_field State.draws (fun i => codeWrite_draws (sourceIndex p i) _) _ s

theorem exec_unpack_of_checks {s : State} (hvalid : s.profileValid = true) (hlen : s.snap.srcLen = s.packLen) :
    exec .unpack s = .next (unpackScan s) := by
  rw [exec, execUnpack, unpackCommand, profileGate, if_pos hvalid, lengthCheck, if_pos hlen]

/-- Settles O38: the bytes read are the stored ones, and each pass stores a code in a word of its own. -/
theorem unpackWritesCodes : Obligations.UnpackWritesCodes := by
  intro s b hvalid hinv hlen hbytes
  have hexec : exec .unpack s =
      .next (completeOk (writeExtracted s.act ((List.range s.act.packedBytes).map b) s)) := by
    rw [exec_unpack_of_checks hvalid hlen, unpackScan,
      readFrom_stored b _ 0 fun n _ hn => packRead_stored (hbytes n (by omega)), ← List.range_eq_range']
  refine ⟨_, hexec, fun i hi => ⟨?_, le_two_pow_sub_one_iff.mpr (extractCode_lt _ b i)⟩, completedWith_completeOk _,
    (commandsLeaveRegisters _ _ _ hexec).1 (by decide), writeExtracted_draws _ _ s,
    exec_sameOutside (b := .code) rfl hexec⟩
  rw [completeOk_mem, codeWord?_writeExtracted _ _ _ hi]
  refine congrArg some (extractCode_congr hinv.layout_legal hinv.bits_le hi fun n m hn _ _ => ?_)
  simp [hn]

/-! ### UNPACK after PACK (O39) -/

/-- Settles O39: the bytes PACK leaves extract to the codes in stream order, and `src` takes each back to its index. -/
theorem unpackUndoesPack : Obligations.UnpackUndoesPack := by
  intro s k hinv hvalid hshape hlen hcodes
  have hprofile := hinv.valid hvalid
  let q i := k (sourceIndex s.act i)
  obtain ⟨t, hpack, hbytes, -, hsame, -, -⟩ := packWritesBytes s k hvalid hshape hcodes
  let t' := startCommand (encode .unpack) t
  have hact : t'.act = s.act := hsame.act
  have hcaps : t'.caps = s.caps := hsame.caps
  have hlen' : t'.snap.srcLen = t'.packLen := hsame.srcLen.trans (hlen.trans hsame.packLen.symm)
  obtain ⟨u, hunpack, hwords, hdone, -, -, -⟩ := unpackWritesCodes t' (packedByte s.act q)
    (hsame.profileValid.trans hvalid) (by rwa [hact, hcaps]) hlen' (by rw [hact]; exact hbytes q fun _ _ => rfl)
  refine ⟨t, u, hpack, hunpack, hdone.err, fun i hi => ?_⟩
  have hsrc := sourceIndex_lt s.act hi
  have hback := sourceIndex_sourceIndex hi
  rw [hact] at hwords
  obtain ⟨hword, -⟩ := hwords (sourceIndex s.act i) hsrc
  rw [hback] at hword
  rw [hword, extractCode_packedByte hprofile.layout_legal hprofile.bits_le hsrc]
  · exact congrArg (some ∘ k) hback
  · exact le_two_pow_sub_one_iff.mp (hcodes _ (sourceIndex_lt s.act hsrc)).2

end Sys2Proof.Proofs.PackCommands
end

section
/-! PROOFS. Start, errors and completion (60_exceptions.md R180 to R189, R199): what a CMD write does, the kinds a
command can complete with before and after its checks, and what ends a running command. -/

namespace Sys2Proof.Proofs.Completion

open Sys2Proof Sys2Proof.Machine Sys2Proof.Proofs.Bus Sys2Proof.Proofs.Steps Sys2Proof.Proofs.Encoding

/-! ### Checks before a command's scan (O12) -/

section
variable {s : State}

theorem gate_and_shapeCheck_stop (k : State → State) (hvalid : s.profileValid = true)
    (hne : s.snap.srcRes ≠ s.act.res) : profileGate s (fun s => shapeCheck s k) =
      raiseError .shapeMismatch 0 (zext64 s.act.res) (zext64 s.snap.srcRes) s := by
  rw [profileGate, if_pos hvalid, shapeCheck, if_neg hne]

theorem gate_and_lengthCheck_stop (k : State → State) (hvalid : s.profileValid = true)
    (hne : s.snap.srcLen ≠ s.packLen) : profileGate s (fun s => lengthCheck s k) =
      raiseError .bufferLengthMismatch 0 (zext64 s.packLen) (zext64 s.snap.srcLen) s := by
  rw [profileGate, if_pos hvalid, lengthCheck, if_neg hne]

end

/-- Settles O12: past the gate, the check of the declared shape or length ends the command. -/
theorem descriptorMismatchStops : Obligations.DescriptorMismatchStops := by
  intro s hvalid
  constructor
  · rintro i (rfl | rfl | rfl) hne <;>
      exact congrArg Host.Outcome.next (gate_and_shapeCheck_stop _ hvalid hne)
  · intro hne
    exact congrArg Host.Outcome.next (gate_and_lengthCheck_stop _ hvalid hne)

/-! ### The kinds a command completes with (O13, O16) -/

/-- R183 steps 2 and 3: what a command can raise before its scan. VALIDATE has no scan. -/
def earlyErrors : Instr → List ErrKind
  | .validate => [.invalidProfile]
  | .quantize | .dequantize | .pack => [.invalidProfile, .shapeMismatch]
  | .unpack => [.invalidProfile, .bufferLengthMismatch]

/-- R183 step 4, R186: what a command can complete with once its checks have passed. -/
def scanKinds : Instr → List ErrKind
  | .validate | .unpack => [.noError]
  | .quantize => [.noError, .outOfDomain]
  | .dequantize | .pack => [.noError, .codeOutOfRange]

/-- `t` ends command `i` begun in `s`: by an early error with the memory as it was, or after the checks. -/
def EndsWithKind (i : Instr) (s t : State) : Prop :=
  (t.err ∈ earlyErrors i ∧ t.mem = s.mem) ∨ t.err ∈ scanKinds i

section
variable {i : Instr} {s t : State}

theorem endsWithKind_profileGate {k : State → State} (hi : .invalidProfile ∈ earlyErrors i)
    (h : EndsWithKind i s (k s)) : EndsWithKind i s (profileGate s k) := by
  obtain ⟨-, hk⟩ | ⟨-, hk⟩ := profileGate_cases s k <;> rw [hk]
  · exact h
  · exact .inl ⟨hi, rfl⟩

theorem endsWithKind_shapeCheck {k : State → State} (hi : .shapeMismatch ∈ earlyErrors i)
    (h : EndsWithKind i s (k s)) : EndsWithKind i s (shapeCheck s k) := by
  obtain ⟨-, hk⟩ | ⟨-, hk⟩ := shapeCheck_cases s k <;> rw [hk]
  · exact h
  · exact .inl ⟨hi, rfl⟩

theorem endsWithKind_lengthCheck {k : State → State} (hi : .bufferLengthMismatch ∈ earlyErrors i)
    (h : EndsWithKind i s (k s)) : EndsWithKind i s (lengthCheck s k) := by
  obtain ⟨-, hk⟩ | ⟨-, hk⟩ := lengthCheck_cases s k <;> rw [hk]
  · exact h
  · exact .inl ⟨hi, rfl⟩

theorem finishElements_err_mem {β : Type} (k : ErrKind) (r : Except (Nat × (Word64 × Word64)) (List β))
    (scramble : State → State) (write : List β → State → State) (s : State) :
    (finishElements k r scramble write s).err ∈ [.noError, k] := by
  obtain ⟨e, -, he⟩ | ⟨bs, -, he⟩ := finishElements_cases k r scramble write s <;> simp [he]

theorem endsWithKind_validate (s : State) : EndsWithKind .validate s (validateCommand s) := by
  unfold validateCommand
  split
  · exact .inl ⟨List.mem_singleton_self _, rfl⟩
  · exact .inr (List.mem_singleton_self _)

/-- R180, R183: the kind a command completes with, and when. -/
theorem exec_endsWithKind (h : exec i s = .next t) : EndsWithKind i s t := by
  cases i <;> cases h
  case validate => exact endsWithKind_validate s
  case unpack =>
    exact endsWithKind_profileGate (by decide) <| endsWithKind_lengthCheck (by decide) <|
      .inr (List.mem_singleton_self _)
  case quantize | dequantize | pack =>
    exact endsWithKind_profileGate (by decide) <| endsWithKind_shapeCheck (by decide) <|
      .inr (finishElements_err_mem _ _ _ _ _)

theorem exec_done (h : exec i s = .next t) : t.done = true := by
  obtain ⟨-, -⟩ := exec_next h
  rfl

end

/-- Settles O13: a command's kinds in R180's table are those before and those after its checks. -/
theorem commandsComplete : Obligations.CommandsComplete := by
  intro i s
  obtain ⟨t, ht, hidle, -, -⟩ := exec_completes i s
  refine ⟨t, ht, hidle, exec_done ht, ?_⟩
  have hkind : t.err ∈ earlyErrors i ++ scanKinds i := by
    obtain ⟨hearly, -⟩ | hscan := exec_endsWithKind ht
    · exact List.mem_append_left _ hearly
    · exact List.mem_append_right _ hscan
  revert hkind
  generalize t.err = k
  cases i <;> revert k <;> decide

theorem not_mem_scanKinds {i : Instr} {k : ErrKind}
    (h : k = .invalidProfile ∨ k = .shapeMismatch ∨ k = .bufferLengthMismatch) : k ∉ scanKinds i := by
  obtain rfl | rfl | rfl := h <;> cases i <;> decide

/-- Settles O16: none of the three kinds comes out of a scan. -/
theorem earlyErrorsWriteNothing : Obligations.EarlyErrorsWriteNothing := by
  intro i s t h herr
  obtain ⟨hother, -⟩ := commandsLeaveRegisters i s t h
  refine ⟨?_, fun hi => ⟨(hother hi).act, (hother hi).profileValid⟩⟩
  obtain ⟨-, hmem⟩ | hscan := exec_endsWithKind h
  · exact hmem
  · exact absurd hscan (not_mem_scanKinds herr)

/-! ### What ends a running command (O59) -/

section
variable {s u : State}

theorem writeReg_keepsCommand (r : Reg) (v : Word) (s : State) :
    (s.busy = true → (writeReg r v s).engine = s.engine) ∧ ((writeReg r v s).done = true → s.done = true) := by
  obtain ⟨hw, hidle⟩ | hw | ⟨_, _, _, _, _, hw⟩ := writeReg_cases r v s <;> rw [hw]
  · exact ⟨fun hbusy => by simp [hidle] at hbusy, nofun⟩
  · exact ⟨fun _ => rfl, fun hdone => (Bool.and_eq_true_iff.1 hdone).1⟩
  · exact ⟨fun _ => rfl, id⟩

/-- R199: no host access ends a running command or sets DONE. -/
theorem hostWork_keepsCommand (h : HostWork s u) :
    (s.busy = true → u.engine = s.engine) ∧ (u.done = true → s.done = true) := by
  cases h with
  | accessed hw =>
    obtain ⟨m, d, rfl⟩ := rangeWrites_frame hw
    exact ⟨fun _ => rfl, id⟩
  | wroteReg r v => exact writeReg_keepsCommand r v s

end

/-- Settles O59: the Engine's move completes the command, and a host move keeps it. -/
theorem onlyCompletionOrResetEndsACommand : Obligations.OnlyCompletionOrResetEndsACommand := by
  intro s t h
  obtain ⟨ts, ⟨hts, rfl⟩ | he | hh⟩ := step_next h
  · exact ⟨fun _ _ _ => .inr (.inr ⟨ts, hts⟩), nofun⟩
  · obtain rfl | ⟨op, snap, hrun, ⟨-, -⟩⟩ := engineMove_next he
    · exact ⟨fun _ _ hrun => .inl hrun, .inl⟩
    · exact ⟨fun _ _ _ => .inr (.inl ⟨rfl, rfl⟩), fun _ => .inr ⟨busy_of_running hrun, rfl⟩⟩
  · obtain ⟨u, agent, hwork, rfl⟩ := hostMove_work hh
    obtain ⟨hengine, hdone⟩ := hostWork_keepsCommand hwork
    exact ⟨fun op snap hrun => .inl ((hengine (busy_of_running hrun)).trans hrun), fun ht => .inl (hdone ht)⟩

/-! ### A CMD write (O5, O6) -/

theorem opOf_of_ok {cw : Word} {i : Instr} (h : decode cw = .ok i) : opOf cw = .command i := by
  rw [opOf, h]

theorem opOf_of_error {cw : Word} {r : Reject} (h : decode cw = .error r) : opOf cw = .illegal := by
  rw [opOf, h]

/-- R187: the start, but for what the word decodes to. -/
theorem busWrite_cmd_of_idle {s : State} {cw : Word} {op : Op} (hidle : s.engine = .idle) (hop : opOf cw = op) :
    busWrite .w32 0x00000008#32 cw s = .ok
      { s with
        done := false, err := .noError, errIndex := 0, errExp := 0, errAct := 0
        engine := .running op (s.sample cw) } := by
  subst hop
  exact (busWrite_regAddr .cmd cw s).trans (congrArg _ (writeReg_cmd_of_idle hidle cw))

/-- Settles O5: both clauses are the start with the word's decoding filled in. -/
theorem cmdWriteStarts : Obligations.CmdWriteStarts := fun _ _ hidle =>
  ⟨fun _ hd => busWrite_cmd_of_idle hidle (opOf_of_ok hd),
    fun _ hd => busWrite_cmd_of_idle hidle (opOf_of_error hd)⟩

/-- Settles O6: a running Engine is busy, and the write then reaches OVERRUN alone. -/
theorem cmdWriteWhileBusyDropped : Obligations.CmdWriteWhileBusyDropped := by
  intro s cw op snap hrun
  have hdropped : writeReg .cmd cw s = { s with overrun := true } := if_pos (busy_of_running hrun)
  exact (busWrite_regAddr .cmd cw s).trans (congrArg _ hdropped)

end Sys2Proof.Proofs.Completion
end

section
/-! PROOFS. Command sequences and hazards (70_reset_and_hazards.md R215, R223, R224): a command that completes without
error passed its checks, QUANTIZE and UNPACK then leave codes that PACK and DEQUANTIZE accept, and a host write races
exactly in the ranges of the running command. -/

namespace Sys2Proof.Proofs.Hazards

open Sys2Proof Sys2Proof.Machine Sys2Proof.Proofs.Bus Sys2Proof.Proofs.Steps Sys2Proof.Proofs.PhaseMap
  Sys2Proof.Proofs.ElementCommands Sys2Proof.Proofs.PackedLayout Sys2Proof.Proofs.PackCommands

/-! ### What a completion without error shows (R183, R186) -/

section
variable {s : State} {k : State → State}

theorem profileValid_of_profileGate_noError (h : (profileGate s k).err = .noError) : s.profileValid = true := by
  obtain ⟨hvalid, -⟩ | ⟨-, hstop⟩ := profileGate_cases s k
  · exact hvalid
  · rw [hstop] at h
    cases h

theorem srcRes_of_shapeCheck_noError (h : (shapeCheck s k).err = .noError) : s.snap.srcRes = s.act.res := by
  obtain ⟨hshape, -⟩ | ⟨-, hstop⟩ := shapeCheck_cases s k
  · exact hshape
  · rw [hstop] at h
    cases h

theorem srcLen_of_lengthCheck_noError (h : (lengthCheck s k).err = .noError) : s.snap.srcLen = s.packLen := by
  obtain ⟨hlen, -⟩ | ⟨-, hstop⟩ := lengthCheck_cases s k
  · exact hlen
  · rw [hstop] at h
    cases h

theorem results_of_finishElements_noError {β : Type} {e : ErrKind} {r : Except (Nat × (Word64 × Word64)) (List β)}
    {scramble : State → State} {write : List β → State → State} (he : e ≠ .noError)
    (h : (finishElements e r scramble write s).err = .noError) :
    ∃ bs, r = .ok bs ∧ finishElements e r scramble write s = completeOk (write bs s) := by
  obtain ⟨x, -, hstop⟩ | hok := finishElements_cases e r scramble write s
  · rw [hstop] at h
    exact absurd h he
  · exact hok

end

section
variable {s t : State}

theorem quantizeScan_of_noError (h : exec .quantize s = .next t) (herr : t.err = .noError) :
    s.profileValid = true ∧ s.snap.srcRes = s.act.res ∧ t = quantizeScan s := by
  cases h
  have hvalid := profileValid_of_profileGate_noError herr
  rw [quantizeCommand, profileGate, if_pos hvalid] at herr ⊢
  have hshape := srcRes_of_shapeCheck_noError herr
  exact ⟨hvalid, hshape, by rw [shapeCheck, if_pos hshape]⟩

theorem unpackScan_of_noError (h : exec .unpack s = .next t) (herr : t.err = .noError) :
    s.profileValid = true ∧ t = unpackScan s := by
  cases h
  have hvalid := profileValid_of_profileGate_noError herr
  rw [unpackCommand, profileGate, if_pos hvalid] at herr ⊢
  have hlen := srcLen_of_lengthCheck_noError herr
  exact ⟨hvalid, by rw [lengthCheck, if_pos hlen]⟩

end

/-! ### Codes handed from one command to the next (O40, O41) -/

/-- CODE_MEM[0..S−1] stores the codes `k`, each at most `M`: what the scans of PACK and DEQUANTIZE accept (R131,
R160). -/
def HoldsCodes (s : State) (k : Nat → Word) : Prop :=
  ∀ i, i < s.act.pixels → codeWord? s.mem i = some (k i) ∧ (k i).toNat ≤ 2 ^ s.act.bits - 1

section
variable {s t : State}

theorem qmap_of_quantizeElement_ok {p : Profile} {w : Word64} {c : Word} (h : quantizeElement p w = .ok c) :
    qmap p w = .code c := by
  cases hq : qmap p w with
  | code c' =>
    rw [quantizeElement_of_code hq] at h
    exact congrArg QResult.code (Except.ok.inj h)
  | ood b =>
    rw [quantizeElement_of_ood hq] at h
    cases h

/-- R128: a code the element scan of QUANTIZE answers is at most `M`. -/
theorem checkEach_quantizeElement_le {c : Config.Caps} {p : Profile} (hp : ProfileInv c p) {n : Nat}
    {ws : List Word64} {cs : List Word} (h : checkEach (quantizeElement p) n ws = .ok cs) :
    ∀ x ∈ cs, x.toNat ≤ 2 ^ p.bits - 1 := by
  intro x hx
  obtain ⟨j, hj, rfl⟩ := List.getElem_of_mem hx
  have helem := (checkEach_ok.1 h).get (i := j) (checkEach_length h ▸ hj) hj
  exact qmapCodesInRange c p _ _ hp (qmap_of_quantizeElement_ok helem)

theorem quantizeScan_holdsCodes (hp : ProfileInv s.caps s.act) (herr : (quantizeScan s).err = .noError)
    (hact : (quantizeScan s).act = s.act) : ∃ k, HoldsCodes (quantizeScan s) k := by
  obtain ⟨cs, hcs, hscan⟩ := results_of_finishElements_noError (by decide) herr
  have hlen : cs.length = s.act.pixels := (checkEach_length hcs).trans (length_readFrom _ _ _ _)
  refine ⟨fun i => cs.getD i 0, fun i hi => ?_⟩
  rw [hact] at hi ⊢
  have hi' : i < cs.length := hlen ▸ hi
  have hmem : cs.getD i 0 ∈ cs := List.getD_eq_getElem cs 0 hi' ▸ List.getElem_mem hi'
  refine ⟨?_, checkEach_quantizeElement_le hp hcs _ hmem⟩
  rw [quantizeScan, hscan, completeOk_mem, codeWord?_writeCodes, if_pos hi']

theorem unpackScan_holdsCodes (s : State) (hact : (unpackScan s).act = s.act) :
    ∃ k, HoldsCodes (unpackScan s) k := by
  let b n := (readFrom packRead 0 s.act.packedBytes s).1.getD n 0
  refine ⟨fun i => extractCode s.act b (sourceIndex s.act i), fun i hi => ?_⟩
  rw [hact] at hi ⊢
  refine ⟨?_, le_two_pow_sub_one_iff.mpr (extractCode_lt _ b _)⟩
  have hword := codeWord?_writeExtracted s.act (readFrom packRead 0 s.act.packedBytes s).1
    (readFrom packRead 0 s.act.packedBytes s).2 (sourceIndex_lt s.act hi)
  rwa [sourceIndex_sourceIndex hi] at hword

/-- R187: a command started after one that kept the setup samples the declared shape. -/
theorem startCommand_checks (cw : Word) (hsame : SameSetup s t) (hvalid : s.profileValid = true)
    (hshape : s.srcRes = s.act.res) : (startCommand cw t).profileValid = true ∧
      (startCommand cw t).snap.srcRes = (startCommand cw t).act.res :=
  ⟨hsame.profileValid.trans hvalid, hsame.srcRes.trans (hshape.trans (congrArg Profile.res hsame.act).symm)⟩

end

/-- Settles O40: the codes QUANTIZE leaves are at most `M`, and the shape it checked is still declared. -/
theorem packAfterQuantizeSucceeds : Obligations.PackAfterQuantizeSucceeds := by
  intro s t hinv hres hexec herr
  have hsame := (commandsLeaveRegisters _ _ _ hexec).1 (by decide)
  obtain ⟨hvalid, hshape, rfl⟩ := quantizeScan_of_noError hexec herr
  obtain ⟨k, hcodes⟩ := quantizeScan_holdsCodes (hinv.valid hvalid) herr hsame.act
  obtain ⟨hvalid', hshape'⟩ := startCommand_checks (encode .pack) hsame hvalid (hres.trans hshape)
  obtain ⟨u, hpack, -, hdone, -⟩ := packWritesBytes _ k hvalid' hshape' hcodes
  exact ⟨u, hpack, hdone.err⟩

/-- Settles O41: the codes UNPACK extracts have `N` bits, so they are at most `M`. -/
theorem dequantizeAfterUnpackSucceeds : Obligations.DequantizeAfterUnpackSucceeds := by
  intro s t _ hshape hexec herr
  have hsame := (commandsLeaveRegisters _ _ _ hexec).1 (by decide)
  obtain ⟨hvalid, rfl⟩ := unpackScan_of_noError hexec herr
  obtain ⟨k, hcodes⟩ := unpackScan_holdsCodes s hsame.act
  obtain ⟨hvalid', hshape'⟩ := startCommand_checks (encode .dequantize) hsame hvalid hshape
  obtain ⟨u, hdequantize, -, hdone, -⟩ := dequantizeWritesPhases _ k hvalid' hshape' hcodes
  exact ⟨u, hdequantize, hdone.err⟩

/-! ### Host races (O51) -/

section
variable {s : State}

/-- R71, R215: the ranges of a running command, buffer by buffer. -/
theorem engineUses_iff {i : Instr} {snap : Snap} (hrun : s.engine = .running (.command i) snap) (j : Nat) :
    (s.engineUses .phase j = true ↔ (i = .quantize ∨ i = .dequantize) ∧ j < s.act.pixels) ∧
    (s.engineUses .code j = true ↔ i ≠ .validate ∧ j < s.act.pixels) ∧
    (s.engineUses .pack j = true ↔ (i = .pack ∨ i = .unpack) ∧ j < s.act.packedBytes) := by
  simp only [State.engineUses, hrun, Bool.and_eq_true, decide_eq_true_eq]
  cases i <;> simp [opSource, opTarget, rangeLength]

theorem busWrite_hostRace_iff {w : Width} {addr v : Word} {tg : BusTarget}
    (htg : busTarget s.caps w addr = some tg) :
    busWrite w addr v s = .error .hostRace ↔ targetRaces s tg = true := by
  cases hrace : targetRaces s tg <;> simp [busWrite, htg, hrace]

/-- R71: a range begins at word 0. -/
theorem engineUses_of_le {b : Buffer} {i j : Nat} (hij : i ≤ j) (h : s.engineUses b j = true) :
    s.engineUses b i = true := by
  unfold State.engineUses at h ⊢
  cases hengine : s.engine with
  | idle => simp [hengine] at h
  | running op snap =>
    simp only [hengine, Bool.and_eq_true, decide_eq_true_eq] at h ⊢
    obtain ⟨hbuffer, hj⟩ := h
    exact ⟨hbuffer, hij.trans_lt hj⟩

/-- An access reaches into the range exactly when its lowest byte is in it. -/
theorem targetRaces_pack {k n : Nat} (hn : 1 ≤ n) :
    targetRaces s (.pack k n) = true ↔ s.engineUses .pack k = true := by
  simp only [targetRaces, List.any_eq_true, List.mem_range]
  exact ⟨fun ⟨_, _, hj⟩ => engineUses_of_le (Nat.le_add_right k _) hj, fun h => ⟨0, hn, h⟩⟩

end

/-- Settles O51: a write races when its target is in the ranges of `State.engineUses`, and an access to PACK_MEM
covers at least one byte. -/
theorem hostRaceExactlyInTheRanges : Obligations.HostRaceExactlyInTheRanges := by
  intro s i snap w a v hrun
  refine ⟨fun r htg => ?_, fun j high htg => ?_, fun j htg => ?_, fun k n htg => ?_⟩
  · rw [ne_eq, busWrite_hostRace_iff htg]
    exact Bool.false_ne_true
  · obtain ⟨hphase, -, -⟩ := engineUses_iff hrun j
    exact (busWrite_hostRace_iff htg).trans hphase
  · obtain ⟨-, hcode, -⟩ := engineUses_iff hrun j
    exact (busWrite_hostRace_iff htg).trans hcode
  · obtain ⟨-, -, hpack⟩ := engineUses_iff hrun k
    obtain ⟨rfl, -⟩ := accepts_of_busTarget htg
    exact (busWrite_hostRace_iff htg).trans ((targetRaces_pack (widthBytes_bounds w).1).trans hpack)

end Sys2Proof.Proofs.Hazards
end
